-- ==== Sys2Proof/Word.lean ====
section
/-! DEFINITION. The word types of the Femto core: bytes, 12-bit addresses and 7-bit opcodes
(spec/10_state.md R21, R23; spec/30_encoding.md R71). -/

namespace Sys2Proof

/-- A byte: the content of a register, of `sp` and of one memory cell (spec/10_state.md R21, R31;
spec/20_memory.md R50). -/
abbrev Byte := BitVec 8

/-- A 12-bit address. `pc`, `ia` and every memory address are one; its arithmetic wraps mod 4096
(spec/10_state.md R23, R24). -/
abbrev Addr := BitVec 12

/-- The 7-bit opcode field `op` (spec/30_encoding.md R71). -/
abbrev Opcode := BitVec 7

end Sys2Proof
end

