-- ==== Sys2Proof/Syntax.lean ====
section
/-! DEFINITION. The instructions of the Femto core as syntax: one constructor per row of
spec/opcode_table.json (spec/30_encoding.md R76). -/

namespace Sys2Proof

/-- The four general registers (spec/10_state.md R21). -/
inductive Reg where
  | r0 | r1 | r2 | r3
  deriving DecidableEq, Repr

/-- A resolved RegisterOrImmediate operand (spec/30_encoding.md R77). An immediate is held in 12 bits
for both widths; of a Data-width field only values up to 0xFF are well formed (R73). -/
inductive Operand where
  /-- `Reg(i)`: the mode bit M is 1. -/
  | reg (r : Reg)
  /-- `Imm(v)`: the mode bit M is 0. -/
  | imm (v : Addr)
  deriving DecidableEq, Repr

/-- The 23 instructions of spec/30_encoding.md R76, in the order of their opcodes. -/
inductive Instr where
  /-- HLT, spec/40_engine.md R116. -/
  | hlt
  /-- LDR Rd, Rs or imm8: spec/41_data_transfer.md R131. -/
  | ldr (d : Reg) (src : Operand)
  /-- LDM Rd, [Rs] or [addr]: spec/41_data_transfer.md R132. -/
  | ldm (d : Reg) (src : Operand)
  /-- STI [Rd], imm8; a register source halts: spec/41_data_transfer.md R133. -/
  | sti (d : Reg) (src : Operand)
  /-- STR [Rd] or [addr], Rs: spec/41_data_transfer.md R134. -/
  | str (dst : Operand) (src : Reg)
  /-- ADD Rd, Rs: spec/42_alu.md R152. -/
  | add (d src : Reg)
  /-- SUB Rd, Rs: spec/42_alu.md R153. -/
  | sub (d src : Reg)
  /-- CMP Rd, Rs: spec/42_alu.md R154. -/
  | cmp (d src : Reg)
  /-- JZ addr: spec/43_jumps.md R172. -/
  | jz (target : Addr)
  /-- JNZ addr: spec/43_jumps.md R173. -/
  | jnz (target : Addr)
  /-- JN addr: spec/43_jumps.md R174. -/
  | jn (target : Addr)
  /-- JNN addr: spec/43_jumps.md R175. -/
  | jnn (target : Addr)
  /-- JC addr: spec/43_jumps.md R176. -/
  | jc (target : Addr)
  /-- JNC addr: spec/43_jumps.md R177. -/
  | jnc (target : Addr)
  /-- JBE addr: spec/43_jumps.md R178. -/
  | jbe (target : Addr)
  /-- JA addr: spec/43_jumps.md R179. -/
  | ja (target : Addr)
  /-- JMP addr: spec/43_jumps.md R171. -/
  | jmp (target : Addr)
  /-- PUSH Rd or imm8: spec/44_stack_call.md R192. -/
  | push (src : Operand)
  /-- POP Rd: spec/44_stack_call.md R193. -/
  | pop (d : Reg)
  /-- CALL addr: spec/44_stack_call.md R194. -/
  | call (target : Addr)
  /-- RET: spec/44_stack_call.md R195. -/
  | ret
  /-- IN Rd, port in Rs or imm8: spec/45_io.md R211. -/
  | inPort (d : Reg) (port : Operand)
  /-- OUT port in Rd or imm8, Rs: spec/45_io.md R212. -/
  | outPort (port : Operand) (src : Reg)
  deriving DecidableEq, Repr

end Sys2Proof
end

