-- ==== Sys2Proof/WellFormed.lean ====
section
/-! DEFINITION. Which instruction terms an encoding admits: an immediate of a Data-width field has
at most 8 bits (spec/30_encoding.md R73, R78). Everything else is fixed by the types. -/

namespace Sys2Proof

/-- An operand of a Data-width field: a register, or an immediate up to 0xFF (spec/30_encoding.md
R73: "An instruction whose width is Data has `v` <= 0xFF"). -/
def Operand.fitsData : Operand → Bool
  | .reg _ => true
  | .imm v => decide (v.toNat ≤ 0xFF)

/-- An instruction is well formed when each immediate of a Data-width field fits it. The widths are
those of the descriptor table, spec/30_encoding.md R76. -/
def Instr.wellFormed : Instr → Bool
  | .hlt => true
  | .ldr _ src => src.fitsData
  | .ldm _ _ => true
  | .sti _ src => src.fitsData
  | .str _ _ => true
  | .add _ _ => true
  | .sub _ _ => true
  | .cmp _ _ => true
  | .jz _ => true
  | .jnz _ => true
  | .jn _ => true
  | .jnn _ => true
  | .jc _ => true
  | .jnc _ => true
  | .jbe _ => true
  | .ja _ => true
  | .jmp _ => true
  | .push src => src.fitsData
  | .pop _ => true
  | .call _ => true
  | .ret => true
  | .inPort _ port => port.fitsData
  | .outPort port _ => port.fitsData

end Sys2Proof
end

