-- ==== Sys2Proof/Decode.lean ====
section
/-! DEFINITION. Decode and encode of the 3-byte machine word (spec/30_encoding.md): the fields, the
descriptor table, the addressing-mode resolver, the decoder, and after it the encoder. -/

namespace Sys2Proof

/-! ### The fields of a word -/

/-- The fields that Decode reads from every word, used or not (spec/30_encoding.md R72). -/
structure Fields where
  op : Opcode
  m : Bool
  d : BitVec 2
  s : BitVec 2
  k : Byte
  a12 : Addr
  deriving DecidableEq, Repr

/-- Decode of spec/30_encoding.md R72, at the bit positions of R71. -/
def decodeFields (b0 b1 b2 : Byte) : Fields where
  op := b0.extractLsb' 0 7
  m := b0.getLsbD 7
  d := b1.extractLsb' 6 2
  s := b1.extractLsb' 4 2
  k := b2
  a12 := b1.extractLsb' 0 4 ++ b2

/-- The register that a 2-bit field selects, with no translation (spec/10_state.md R21). -/
def regOfBits (b : BitVec 2) : Reg :=
  match b.toNat with
  | 0 => .r0
  | 1 => .r1
  | 2 => .r2
  | _ => .r3

/-! ### Descriptors and the resolver -/

/-- The mode of an operand field (spec/30_encoding.md R75). -/
inductive FieldMode where
  | none
  | registerOnly
  | immediateOnly
  | registerOrImmediate
  deriving DecidableEq, Repr

/-- The operand width of an instruction: which immediate its fields read (spec/30_encoding.md R75). -/
inductive Width where
  /-- 8 bits: `K`. -/
  | data
  /-- 12 bits: `A12`. -/
  | address
  deriving DecidableEq, Repr

/-- An InstructionDescriptor (spec/30_encoding.md R75). -/
structure Descriptor where
  mnemonic : String
  op : Opcode
  destMode : FieldMode
  srcMode : FieldMode
  width : Width
  deriving DecidableEq, Repr

/-- The descriptor table of spec/30_encoding.md R76, row by row. Its numbers other than 0, 1 and 5 are
the spec's decision D1 (assumption 1), its modes D2, D23 and D34 (assumption 2). -/
def descriptors : List Descriptor :=
  [ ⟨"HLT", 0x00#7, .none, .none, .data⟩,
    ⟨"LDR", 0x01#7, .registerOnly, .registerOrImmediate, .data⟩,
    ⟨"LDM", 0x02#7, .registerOnly, .registerOrImmediate, .address⟩,
    ⟨"STI", 0x03#7, .registerOnly, .registerOrImmediate, .data⟩,
    ⟨"STR", 0x04#7, .registerOrImmediate, .registerOnly, .address⟩,
    ⟨"ADD", 0x05#7, .registerOnly, .registerOnly, .data⟩,
    ⟨"SUB", 0x06#7, .registerOnly, .registerOnly, .data⟩,
    ⟨"CMP", 0x07#7, .registerOnly, .registerOnly, .data⟩,
    ⟨"JZ", 0x08#7, .immediateOnly, .none, .address⟩,
    ⟨"JNZ", 0x09#7, .immediateOnly, .none, .address⟩,
    ⟨"JN", 0x0A#7, .immediateOnly, .none, .address⟩,
    ⟨"JNN", 0x0B#7, .immediateOnly, .none, .address⟩,
    ⟨"JC", 0x0C#7, .immediateOnly, .none, .address⟩,
    ⟨"JNC", 0x0D#7, .immediateOnly, .none, .address⟩,
    ⟨"JBE", 0x0E#7, .immediateOnly, .none, .address⟩,
    ⟨"JA", 0x0F#7, .immediateOnly, .none, .address⟩,
    ⟨"JMP", 0x10#7, .immediateOnly, .none, .address⟩,
    ⟨"PUSH", 0x11#7, .registerOrImmediate, .none, .data⟩,
    ⟨"POP", 0x12#7, .registerOnly, .none, .data⟩,
    ⟨"CALL", 0x13#7, .immediateOnly, .none, .address⟩,
    ⟨"RET", 0x14#7, .none, .none, .data⟩,
    ⟨"IN", 0x15#7, .registerOnly, .registerOrImmediate, .data⟩,
    ⟨"OUT", 0x16#7, .registerOrImmediate, .registerOnly, .data⟩ ]

/-- The descriptor of an opcode, if it has one (spec/30_encoding.md R75, R80). -/
def descriptorOf (op : Opcode) : Option Descriptor :=
  descriptors.find? (fun desc => desc.op == op)

/-- The immediate of a field: `K` zero-extended, or `A12` (spec/30_encoding.md R78). -/
def immediateOf (width : Width) (f : Fields) : Addr :=
  match width with
  | .data => f.k.setWidth 12
  | .address => f.a12

/-- A RegisterOrImmediate field: M chooses (spec/30_encoding.md R74, R77). -/
def regOrImm (sel : BitVec 2) (width : Width) (f : Fields) : Operand :=
  if f.m then .reg (regOfBits sel) else .imm (immediateOf width f)

/-- The addressing-mode resolver of spec/30_encoding.md R77; `none` is the operand None. -/
def resolve (mode : FieldMode) (sel : BitVec 2) (width : Width) (f : Fields) : Option Operand :=
  match mode with
  | .none => none
  | .registerOnly => some (.reg (regOfBits sel))
  | .immediateOnly => some (.imm (immediateOf width f))
  | .registerOrImmediate => some (regOrImm sel width f)

/-! ### The decoder -/

/-- What decoding a word gives: an instruction, or the opcode that has no descriptor
(spec/30_encoding.md R80, `IllegalOpcode`). -/
inductive Decoded where
  | instr (i : Instr)
  | illegalOpcode (op : Opcode)
  deriving DecidableEq, Repr

/-- The instruction of a word's fields. The arms are the rows of spec/30_encoding.md R76; bits that a
row does not use are ignored (R82). -/
def decodeInstr (f : Fields) : Decoded :=
  match f.op.toNat with
  | 0x00 => .instr .hlt
  | 0x01 => .instr (.ldr (regOfBits f.d) (regOrImm f.s .data f))
  | 0x02 => .instr (.ldm (regOfBits f.d) (regOrImm f.s .address f))
  | 0x03 => .instr (.sti (regOfBits f.d) (regOrImm f.s .data f))
  | 0x04 => .instr (.str (regOrImm f.d .address f) (regOfBits f.s))
  | 0x05 => .instr (.add (regOfBits f.d) (regOfBits f.s))
  | 0x06 => .instr (.sub (regOfBits f.d) (regOfBits f.s))
  | 0x07 => .instr (.cmp (regOfBits f.d) (regOfBits f.s))
  | 0x08 => .instr (.jz f.a12)
  | 0x09 => .instr (.jnz f.a12)
  | 0x0A => .instr (.jn f.a12)
  | 0x0B => .instr (.jnn f.a12)
  | 0x0C => .instr (.jc f.a12)
  | 0x0D => .instr (.jnc f.a12)
  | 0x0E => .instr (.jbe f.a12)
  | 0x0F => .instr (.ja f.a12)
  | 0x10 => .instr (.jmp f.a12)
  | 0x11 => .instr (.push (regOrImm f.d .data f))
  | 0x12 => .instr (.pop (regOfBits f.d))
  | 0x13 => .instr (.call f.a12)
  | 0x14 => .instr .ret
  | 0x15 => .instr (.inPort (regOfBits f.d) (regOrImm f.s .data f))
  | 0x16 => .instr (.outPort (regOrImm f.d .data f) (regOfBits f.s))
  | _ => .illegalOpcode f.op

/-- Decode of three bytes in fetch order: total on any bytes, rejecting an undefined opcode by name
(spec/30_encoding.md R72, R80). -/
def decode (b0 b1 b2 : Byte) : Decoded :=
  decodeInstr (decodeFields b0 b1 b2)

/-- The decoder on a word numbered as spec/opcode_table.json numbers it, `W = {Byte0, Byte1, Byte2}`
with bit 23 = Byte0[7] (spec/30_encoding.md R71, R83, assumption 39). Bits from `nbits` up are 0. -/
def decodeTableWord (nbits w : Nat) : Option Instr :=
  let word : BitVec 24 := BitVec.ofNat 24 (w % 2 ^ nbits)
  match decode (word.extractLsb' 16 8) (word.extractLsb' 8 8) (word.extractLsb' 0 8) with
  | .instr i => some i
  | .illegalOpcode _ => none

/-! ### The encoder -/

/-- Encode of spec/30_encoding.md R73. -/
def encodeFields (op : Opcode) (m : Bool) (d s : BitVec 2) (v : Addr) : Byte × Byte × Byte :=
  (BitVec.ofBool m ++ op, d ++ s ++ v.extractLsb' 8 4, v.extractLsb' 0 8)

/-- The 2-bit field that selects a register (spec/10_state.md R21). -/
def Reg.bits : Reg → BitVec 2
  | .r0 => 0#2
  | .r1 => 1#2
  | .r2 => 2#2
  | .r3 => 3#2

/-- M of a RegisterOrImmediate operand: 1 exactly for a register (spec/30_encoding.md R74, R87). -/
def Operand.modeBit : Operand → Bool
  | .reg _ => true
  | .imm _ => false

/-- The register field of a RegisterOrImmediate operand, 0 for an immediate. -/
def Operand.regBits : Operand → BitVec 2
  | .reg r => r.bits
  | .imm _ => 0#2

/-- The value field of a RegisterOrImmediate operand, 0 for a register (spec/30_encoding.md R73: "An
instruction with no immediate has `v` = 0"). -/
def Operand.immBits : Operand → Addr
  | .reg _ => 0#12
  | .imm v => v

/-- The word of an instruction, its three bytes in fetch order (spec/30_encoding.md R73, R76); every
bit the instruction does not use is 0. -/
def encode : Instr → Byte × Byte × Byte
  | .hlt => encodeFields 0x00#7 false 0#2 0#2 0#12
  | .ldr d src => encodeFields 0x01#7 src.modeBit d.bits src.regBits src.immBits
  | .ldm d src => encodeFields 0x02#7 src.modeBit d.bits src.regBits src.immBits
  | .sti d src => encodeFields 0x03#7 src.modeBit d.bits src.regBits src.immBits
  | .str dst src => encodeFields 0x04#7 dst.modeBit dst.regBits src.bits dst.immBits
  | .add d src => encodeFields 0x05#7 false d.bits src.bits 0#12
  | .sub d src => encodeFields 0x06#7 false d.bits src.bits 0#12
  | .cmp d src => encodeFields 0x07#7 false d.bits src.bits 0#12
  | .jz a => encodeFields 0x08#7 false 0#2 0#2 a
  | .jnz a => encodeFields 0x09#7 false 0#2 0#2 a
  | .jn a => encodeFields 0x0A#7 false 0#2 0#2 a
  | .jnn a => encodeFields 0x0B#7 false 0#2 0#2 a
  | .jc a => encodeFields 0x0C#7 false 0#2 0#2 a
  | .jnc a => encodeFields 0x0D#7 false 0#2 0#2 a
  | .jbe a => encodeFields 0x0E#7 false 0#2 0#2 a
  | .ja a => encodeFields 0x0F#7 false 0#2 0#2 a
  | .jmp a => encodeFields 0x10#7 false 0#2 0#2 a
  | .push src => encodeFields 0x11#7 src.modeBit src.regBits 0#2 src.immBits
  | .pop d => encodeFields 0x12#7 false d.bits 0#2 0#12
  | .call a => encodeFields 0x13#7 false 0#2 0#2 a
  | .ret => encodeFields 0x14#7 false 0#2 0#2 0#12
  | .inPort d port => encodeFields 0x15#7 port.modeBit d.bits port.regBits port.immBits
  | .outPort port src => encodeFields 0x16#7 port.modeBit port.regBits src.bits port.immBits

/-! ### What an instruction shows of its row -/

/-- The mnemonic of an instruction, as spec/30_encoding.md R76 spells it. -/
def Instr.mnemonic : Instr → String
  | .hlt => "HLT"
  | .ldr _ _ => "LDR"
  | .ldm _ _ => "LDM"
  | .sti _ _ => "STI"
  | .str _ _ => "STR"
  | .add _ _ => "ADD"
  | .sub _ _ => "SUB"
  | .cmp _ _ => "CMP"
  | .jz _ => "JZ"
  | .jnz _ => "JNZ"
  | .jn _ => "JN"
  | .jnn _ => "JNN"
  | .jc _ => "JC"
  | .jnc _ => "JNC"
  | .jbe _ => "JBE"
  | .ja _ => "JA"
  | .jmp _ => "JMP"
  | .push _ => "PUSH"
  | .pop _ => "POP"
  | .call _ => "CALL"
  | .ret => "RET"
  | .inPort _ _ => "IN"
  | .outPort _ _ => "OUT"

/-- The resolved destination and source operands of an instruction, in the form the resolver of
spec/30_encoding.md R77 gives them. -/
def Instr.operands : Instr → Option Operand × Option Operand
  | .hlt => (none, none)
  | .ldr d src => (some (.reg d), some src)
  | .ldm d src => (some (.reg d), some src)
  | .sti d src => (some (.reg d), some src)
  | .str dst src => (some dst, some (.reg src))
  | .add d src => (some (.reg d), some (.reg src))
  | .sub d src => (some (.reg d), some (.reg src))
  | .cmp d src => (some (.reg d), some (.reg src))
  | .jz a => (some (.imm a), none)
  | .jnz a => (some (.imm a), none)
  | .jn a => (some (.imm a), none)
  | .jnn a => (some (.imm a), none)
  | .jc a => (some (.imm a), none)
  | .jnc a => (some (.imm a), none)
  | .jbe a => (some (.imm a), none)
  | .ja a => (some (.imm a), none)
  | .jmp a => (some (.imm a), none)
  | .push src => (some src, none)
  | .pop d => (some (.reg d), none)
  | .call a => (some (.imm a), none)
  | .ret => (none, none)
  | .inPort d port => (some (.reg d), some port)
  | .outPort port src => (some port, some (.reg src))

end Sys2Proof
end

