-- ==== Sys2Proof/Config.lean ====
section
/-! DEFINITION. What the spec leaves to an implementation: the parameters of spec/00_scope.md R6 that
change what the core does, the free values, and what an unwritten byte reads as. -/

namespace Sys2Proof.Config

/-- `PC_WRAP_MODULUS`: the modulus of the pc advance of a fetch (spec/10_state.md R24, decision D3). -/
inductive PcWrap where
  /-- 4096, the default. -/
  | mod4096
  /-- 4095, the alternative that spec/90_conflicts.md C1 keeps available. -/
  | mod4095
  deriving DecidableEq, Repr

/-- The number that a `PcWrap` names. -/
def PcWrap.modulus : PcWrap → Nat
  | .mod4096 => 4096
  | .mod4095 => 4095

/-- `RESET_VALUE_POLICY`: what a load gives the elements whose reset value the source does not state
(spec/10_state.md R39, decisions D5 and D6). -/
inductive ResetValuePolicy where
  /-- All of them 0, the default. -/
  | zero
  /-- Any value: a draw that the load takes as an argument. -/
  | unspecified
  deriving DecidableEq, Repr

/-- `IRQ_MASKED_POLICY`: what happens to an interrupt request sampled while I = 0
(spec/60_exceptions.md R225, decision D12). -/
inductive IrqMaskedPolicy where
  /-- The request is dropped, the default. -/
  | discard
  /-- The request stays pending. -/
  | hold
  deriving DecidableEq, Repr

/-- `VECTOR_BYTE_ORDER`: which byte of a vector lies at its location (spec/20_memory.md R56,
decision D18). -/
inductive VectorByteOrder where
  /-- The low byte at V, the default. -/
  | little
  /-- The high byte at V. -/
  | big
  deriving DecidableEq, Repr

/-- The parameters of spec/00_scope.md R6 that bear on the core, as plain data. The two OPEN vector
addresses are among them (decision D17). Assumption 33. -/
structure Params where
  /-- `PC_WRAP_MODULUS` (D3). -/
  pcWrap : PcWrap
  /-- `RESET_VALUE_POLICY` (D5, D6). -/
  resetPolicy : ResetValuePolicy
  /-- `UPDATEFLAGS_CLEARS_I` (D7). -/
  updateFlagsClearsI : Bool
  /-- `IRQ_MASKED_POLICY` (D12). -/
  irqMasked : IrqMaskedPolicy
  /-- `SYSCALL_MASKED_BY_I` (D14). -/
  syscallMaskedByI : Bool
  /-- `ENTRY_CLEARS_I` (D16). -/
  entryClearsI : Bool
  /-- `INT_VECTOR_ADDR` (D17, OPEN). -/
  intVector : Addr
  /-- `SYSCALL_VECTOR_ADDR` (D17, OPEN). -/
  syscallVector : Addr
  /-- `VECTOR_BYTE_ORDER` (D18). -/
  vectorOrder : VectorByteOrder
  deriving DecidableEq, Repr

/-- `INT_VECTOR_ADDR`, which the spec leaves OPEN: a free value (spec/60_exceptions.md R226,
decision D17, assumption 17). -/
opaque intVectorAddr : Addr

/-- `SYSCALL_VECTOR_ADDR`, which the spec leaves OPEN: a free value (spec/60_exceptions.md R226,
decision D17, assumption 17). -/
opaque syscallVectorAddr : Addr

/-- The byte that the `n`-th draw of an IN supplies when it reads port `p`: a free value
(spec/45_io.md R210 "an environment draw: any value in 0..255", assumption 21). -/
opaque portInput : (n : Nat) → (p : Byte) → Byte

/-- Every parameter at the default of spec/00_scope.md R6; the two OPEN addresses stay free. -/
def defaults : Params where
  pcWrap := .mod4096
  resetPolicy := .zero
  updateFlagsClearsI := false
  irqMasked := .discard
  syscallMaskedByI := false
  entryClearsI := false
  intVector := intVectorAddr
  syscallVector := syscallVectorAddr
  vectorOrder := .little

/-- What a byte of memory reads as when nothing has written it (spec/10_state.md R39,
`mem[len..4095]` = 0x00; DESIGN CHOICE of the spec's decision D6, assumption 6, unsafe). -/
def unlistedByte : Byte := 0x00#8

end Sys2Proof.Config
end

