-- ==== Sys2Proof/Machine/State.lean ====
section
/-! DEFINITION. The state of the Femto core as plain data (spec/10_state.md R20), the reasons a step
can stop, and the state right after reset (R39). -/

namespace Sys2Proof.Machine

/-- The register file R0..R3 (spec/10_state.md R21). -/
structure Regs where
  r0 : Byte
  r1 : Byte
  r2 : Byte
  r3 : Byte
  deriving DecidableEq, Repr

/-- The flags register: bit 0 Z, bit 1 C, bit 2 N, bit 3 I (spec/10_state.md R27). -/
structure Flags where
  /-- Bit 0, Zero: the last UpdateFlags result was 0. -/
  z : Bool
  /-- Bit 1, Carry: the last UpdateFlags result was greater than 0xFF. -/
  c : Bool
  /-- Bit 2, Negative: the last UpdateFlags result was less than 0. -/
  n : Bool
  /-- Bit 3, InterruptEnable: interrupt requests are taken. -/
  i : Bool
  deriving DecidableEq, Repr

/-- The run state (spec/10_state.md R32). -/
inductive RunState where
  | running
  | halted
  deriving DecidableEq, Repr

/-- Why the machine halted: `diag.kind` (spec/10_state.md R33, spec/60_exceptions.md R221). -/
inductive HaltKind where
  /-- None: the machine is running. -/
  | none
  /-- Stopped by HLT. -/
  | hlt
  /-- A word whose opcode has no descriptor. -/
  | illegalOpcode
  /-- STI with M = 1. -/
  | illegalRuntimeAddressingMode
  deriving DecidableEq, Repr

/-- The halt diagnostic (spec/10_state.md R33; its layout is the spec's decision D31, assumption 30). -/
structure Diag where
  kind : HaltKind
  op : Opcode
  addr : Addr
  deriving DecidableEq, Repr

/-- One port transaction (spec/45_io.md R210). -/
inductive IoEvent where
  /-- (In, p, v): IN read byte `v` from port `p`. -/
  | input (p v : Byte)
  /-- (Out, p, v): OUT sent byte `v` to port `p`. -/
  | output (p v : Byte)
  deriving DecidableEq, Repr

/-- The 4096-byte memory (spec/20_memory.md R50) as (address, byte) pairs in canonical form:
addresses strictly rising and below 4096, no entry equal to what an unlisted address reads as. -/
abbrev Memory := List Host.Cell

/-- The state of the core (spec/10_state.md R20), then the model's own three fields `cfg`, `events`
and `draws`. -/
structure State where
  /-- R0..R3 (R21). -/
  x : Regs
  /-- The address of the next instruction word to fetch (R23). -/
  pc : Addr
  /-- The stack pointer, the next free slot of the stack region (R31). -/
  sp : Byte
  /-- Z, C, N and I (R27). -/
  flags : Flags
  /-- Running or Halted (R32). -/
  run : RunState
  /-- The 4096 bytes of memory (spec/20_memory.md R50). -/
  mem : Memory
  /-- The halt diagnostic (R33). -/
  diag : Diag
  /-- An interrupt request is latched (R34). -/
  irqPending : Bool
  /-- A syscall request is latched (R34). -/
  sysPending : Bool
  /-- The address the current instruction was fetched from (R35). -/
  ia : Addr
  /-- The model's own: the parameters of spec/00_scope.md R6, which no operation changes
  (assumption 33). -/
  cfg : Config.Params
  /-- The model's own: the port transactions so far, oldest first (spec/45_io.md R210,
  assumption 22). -/
  events : List IoEvent
  /-- The model's own: how many bytes IN has drawn; it indexes `Config.portInput` (assumption 21). -/
  draws : Nat
  deriving DecidableEq, Repr

/-- Why a step has no next state. -/
inductive Fault where
  /-- Raised by `step` alone, when `run` = Halted: "In Halted there is no step" (spec/40_engine.md
  R117). The state stays as it is. Safe: no behaviour of the hardware is left out. Assumption 25. -/
  | halted
  deriving DecidableEq, Repr

/-- Why an operation is turned away with no effect. -/
inductive Refusal where
  /-- For an instruction that has no meaning yet. Every instruction has one, so nothing raises it. -/
  | notModelled (mnemonic : String)
  /-- Raised by the load operation alone, never by a step: an image longer than 4096 bytes
  (spec/70_reset_and_hazards.md R250, `ResourceExhausted`). Safe: the spec refuses it too. -/
  | resourceExhausted
  deriving DecidableEq, Repr

/-- The machine right after reset with nothing loaded: every value of spec/10_state.md R39, under the
default parameters of spec/00_scope.md R6. -/
def State.reset : State where
  x := ⟨0x00#8, 0x00#8, 0x00#8, 0x00#8⟩
  pc := 0x000#12
  sp := 0x00#8
  flags := ⟨false, false, false, false⟩
  run := .running
  mem := []
  diag := ⟨.none, 0x00#7, 0x000#12⟩
  irqPending := false
  sysPending := false
  ia := 0x000#12
  cfg := Config.defaults
  events := []
  draws := 0

end Sys2Proof.Machine
end

