-- ==== Sys2Proof/Machine/Ops.lean ====
section
/-! DEFINITION. The named operations over memory, registers and the stack; halting with a
diagnostic; entering a trap and returning from one. -/

namespace Sys2Proof.Machine

/-! ### Memory -/

/-- The canonical form from address `lo` on: addresses strictly rising, below 4096, and no entry that
an unlisted address would read as. -/
def Memory.wfFrom : Nat → Memory → Bool
  | _, [] => true
  | lo, (b, v) :: rest =>
    decide (lo ≤ b) && decide (b < 4096) && (v != Config.unlistedByte) && Memory.wfFrom (b + 1) rest

/-- The canonical form of memory: equal memories are equal lists. -/
def Memory.wf (m : Memory) : Bool :=
  Memory.wfFrom 0 m

/-- The byte at an address (spec/20_memory.md R50, R63). -/
def Memory.read : Memory → Nat → Byte
  | [], _ => Config.unlistedByte
  | (b, v) :: rest, a => if b = a then v else Memory.read rest a

/-- Put a byte at an address, keeping the canonical form (spec/20_memory.md R50, R63). -/
def Memory.write : Memory → Nat → Byte → Memory
  | [], a, v => if v = Config.unlistedByte then [] else [(a, v)]
  | (b, w) :: rest, a, v =>
    if a < b then
      if v = Config.unlistedByte then (b, w) :: rest else (a, v) :: (b, w) :: rest
    else if a = b then
      if v = Config.unlistedByte then rest else (a, v) :: rest
    else (b, w) :: Memory.write rest a v

/-- Put consecutive bytes into memory from an address on (spec/70_reset_and_hazards.md R250 step 2). -/
def Memory.place : Nat → List Byte → Memory → Memory
  | _, [], m => m
  | a, b :: bs, m => Memory.place (a + 1) bs (m.write a b)

/-- `MemRead(a, 1)` (spec/00_scope.md R10, spec/20_memory.md R52). -/
def State.readByte (s : State) (a : Addr) : Byte :=
  s.mem.read a.toNat

/-- `MemWrite(a, 1, v)` (spec/00_scope.md R10, spec/20_memory.md R52). -/
def State.writeByte (a : Addr) (v : Byte) (s : State) : State :=
  { s with mem := s.mem.write a.toNat v }

/-! ### Registers -/

/-- Read one register of the file (spec/10_state.md R21). -/
def Regs.get (x : Regs) : Reg → Byte
  | .r0 => x.r0
  | .r1 => x.r1
  | .r2 => x.r2
  | .r3 => x.r3

/-- Write one register of the file (spec/10_state.md R21). -/
def Regs.set (x : Regs) : Reg → Byte → Regs
  | .r0, v => { x with r0 := v }
  | .r1, v => { x with r1 := v }
  | .r2, v => { x with r2 := v }
  | .r3, v => { x with r3 := v }

/-- `x[i]` (spec/00_scope.md R10). -/
def State.reg (s : State) (r : Reg) : Byte :=
  s.x.get r

/-- `x[i] <- v` (spec/00_scope.md R10). -/
def State.setReg (r : Reg) (v : Byte) (s : State) : State :=
  { s with x := s.x.set r v }

/-- `pc <- target` (spec/00_scope.md R10). -/
def State.setPc (a : Addr) (s : State) : State :=
  { s with pc := a }

/-- Write `sp` (spec/10_state.md R31). -/
def State.setSp (v : Byte) (s : State) : State :=
  { s with sp := v }

/-- Write the flags register (spec/10_state.md R27). -/
def State.setFlags (f : Flags) (s : State) : State :=
  { s with flags := f }

/-- Write the interrupt-request latch (spec/10_state.md R34). -/
def State.setIrqPending (b : Bool) (s : State) : State :=
  { s with irqPending := b }

/-- Write the syscall-request latch (spec/10_state.md R34). -/
def State.setSysPending (b : Bool) (s : State) : State :=
  { s with sysPending := b }

/-! ### The stack -/

/-- The address of a stack slot, `0xF00 + sp` (spec/10_state.md R31). -/
def stackAddr (sp : Byte) : Addr :=
  0xF00#12 + sp.setWidth 12

/-- `Push8(v)`: write at the current slot, then increment `sp` mod 256 (spec/44_stack_call.md R190). -/
def State.push8 (v : Byte) (s : State) : State :=
  (s.writeByte (stackAddr s.sp) v).setSp (s.sp + 1#8)

/-- The byte that `Pop8()` returns: the one at the slot below (spec/44_stack_call.md R191). -/
def State.popValue (s : State) : Byte :=
  s.readByte (stackAddr (s.sp - 1#8))

/-- The state that `Pop8()` leaves: `sp` decremented mod 256, the byte still in memory
(spec/44_stack_call.md R191). -/
def State.popState (s : State) : State :=
  s.setSp (s.sp - 1#8)

/-- Push the pc with the CALL convention: the low byte first, then the high byte, zero-extended
(spec/44_stack_call.md R194, spec/20_memory.md R55). -/
def State.pushPc (s : State) : State :=
  (s.push8 (s.pc.extractLsb' 0 8)).push8 ((s.pc.extractLsb' 8 4).setWidth 8)

/-- A 12-bit address from a high and a low byte, `{hi, lo} mod 4096` (spec/44_stack_call.md R195,
spec/60_exceptions.md R229). -/
def addrOfBytes (hi lo : Byte) : Addr :=
  (hi ++ lo).setWidth 12

/-! ### Halting -/

/-- `raise Halt(kind, op, addr)`: nothing but `run` and `diag` changes (spec/40_engine.md R115). -/
def State.halt (kind : HaltKind) (op : Opcode) (addr : Addr) (s : State) : State :=
  { s with run := .halted, diag := ⟨kind, op, addr⟩ }

/-! ### Traps -/

/-- `VecRead(V)`: the handler address from the two bytes at V (spec/60_exceptions.md R229). -/
def State.vecRead (v : Addr) (s : State) : Addr :=
  match s.cfg.vectorOrder with
  | .little => addrOfBytes (s.readByte (v + 1#12)) (s.readByte v)
  | .big => addrOfBytes (s.readByte v) (s.readByte (v + 1#12))

/-- The flags after a trap entry: unchanged, or I cleared under `ENTRY_CLEARS_I`
(spec/60_exceptions.md R228, decision D16). -/
def entryFlags (clearsI : Bool) (f : Flags) : Flags :=
  if clearsI then { f with i := false } else f

/-- `TrapEntry(V)`: push the pc of the next instruction that has not run, then load `pc` from the
vector; nothing else is saved (spec/60_exceptions.md R228). -/
def State.trapEntry (v : Addr) (s : State) : State :=
  (s.pushPc.setPc (s.pushPc.vecRead v)).setFlags (entryFlags s.cfg.entryClearsI s.flags)

/-- Return through the stack, from a call or from a trap: pop the high byte, then the low byte, and
set `pc` (spec/44_stack_call.md R195, spec/60_exceptions.md R231). -/
def State.popPc (s : State) : State :=
  s.popState.popState.setPc (addrOfBytes s.popValue s.popState.popValue)

/-! ### Ports -/

/-- The byte `IoIn(p)` returns: the environment's next draw, a free value (spec/45_io.md R210). -/
def State.ioInValue (p : Byte) (s : State) : Byte :=
  Config.portInput s.draws p

/-- The state `IoIn(p)` leaves: the event recorded and the draw counted (spec/45_io.md R210). -/
def State.ioIn (p : Byte) (s : State) : State :=
  { s with events := s.events ++ [.input p (s.ioInValue p)], draws := s.draws + 1 }

/-- `IoOut(p, v)`: the event recorded, nothing in the core changed (spec/45_io.md R210). -/
def State.ioOut (p v : Byte) (s : State) : State :=
  { s with events := s.events ++ [.output p v] }

end Sys2Proof.Machine
end

