-- ==== Sys2Proof/Machine/Flags.lean ====
section
/-! DEFINITION. The flag computations: UpdateFlags, the exact ALU results it is given, and the
conditions of the jumps (spec/42_alu.md R150, R151; spec/43_jumps.md R170 to R179). -/

namespace Sys2Proof.Machine

/-- `trunc_8(n)`: the integer mod 256 (spec/00_scope.md R10). -/
def truncByte (n : Int) : Byte :=
  BitVec.ofInt 8 n

/-- `x[D] + x[S]` as an exact integer of unsigned operands (spec/42_alu.md R151, R152). -/
def exactSum (a b : Byte) : Int :=
  (a.toNat : Int) + (b.toNat : Int)

/-- `x[D] - x[S]` as an exact integer of unsigned operands (spec/42_alu.md R151, R153). -/
def exactDiff (a b : Byte) : Int :=
  (a.toNat : Int) - (b.toNat : Int)

/-- `UpdateFlags(n)`: Z, N and C from the exact result; I is kept unless `UPDATEFLAGS_CLEARS_I`
(spec/42_alu.md R150, decision D7). -/
def updateFlags (clearsI : Bool) (n : Int) (f : Flags) : Flags where
  z := decide (n = 0)
  n := decide (n < 0)
  c := decide (n > 0xFF)
  i := f.i && !clearsI

/-- UpdateFlags on the state. -/
def State.updateFlags (n : Int) (s : State) : State :=
  s.setFlags (Machine.updateFlags s.cfg.updateFlagsClearsI n s.flags)

/-- A jump with its condition: `if cond: pc <- A12` (spec/43_jumps.md R170). -/
def State.jumpIf (cond : Bool) (target : Addr) (s : State) : State :=
  if cond then s.setPc target else s

/-- JBE: "Carry OR Zero" (spec/43_jumps.md R178). -/
def condBelowOrEqual (f : Flags) : Bool :=
  f.c || f.z

/-- JA: "NOT Carry AND NOT Zero" (spec/43_jumps.md R179). -/
def condAbove (f : Flags) : Bool :=
  !f.c && !f.z

/-- The flags register viewed as a byte: bits 3:0 are I, N, C, Z, bits 7:4 are 0
(spec/10_state.md R27, R30). -/
def Flags.toByte (f : Flags) : Byte :=
  0#4 ++ BitVec.ofBool f.i ++ BitVec.ofBool f.n ++ BitVec.ofBool f.c ++ BitVec.ofBool f.z

end Sys2Proof.Machine
end

