-- ==== Sys2Proof/Machine/Alu.lean ====
section
/-! DEFINITION. ADD, SUB and CMP (spec/42_alu.md R152 to R154). -/

namespace Sys2Proof.Machine

/-- ADD: flags from the exact sum, `x[D]` from the sum mod 256 (spec/42_alu.md R152). -/
def execAdd (d src : Reg) (s : State) : Host.Outcome State Fault Refusal :=
  let n := exactSum (s.reg d) (s.reg src)
  .next ((s.updateFlags n).setReg d (truncByte n))

/-- SUB: flags from the exact difference, `x[D]` from the difference mod 256 (spec/42_alu.md R153). -/
def execSub (d src : Reg) (s : State) : Host.Outcome State Fault Refusal :=
  let n := exactDiff (s.reg d) (s.reg src)
  .next ((s.updateFlags n).setReg d (truncByte n))

/-- CMP: flags from the exact difference, no register written (spec/42_alu.md R154). -/
def execCmp (d src : Reg) (s : State) : Host.Outcome State Fault Refusal :=
  .next (s.updateFlags (exactDiff (s.reg d) (s.reg src)))

end Sys2Proof.Machine
end

