-- ==== Sys2Proof/Machine/Control.lean ====
section
/-! DEFINITION. HLT and the Error handler (spec/40_engine.md R114, R116). -/

namespace Sys2Proof.Machine

/-- HLT: `run <- Halted; diag <- (Hlt, 0x00, ia)` (spec/40_engine.md R116). -/
def execHlt (s : State) : Host.Outcome State Fault Refusal :=
  .next (s.halt .hlt 0x00#7 s.ia)

/-- The Error handler, for a word whose opcode has no descriptor: `raise Halt(IllegalOpcode, op, ia)`
(spec/40_engine.md R114). -/
def execIllegalOpcode (op : Opcode) (s : State) : Host.Outcome State Fault Refusal :=
  .next (s.halt .illegalOpcode op s.ia)

end Sys2Proof.Machine
end

