-- ==== Sys2Proof/Machine/Operands.lean ====
section
/-! DEFINITION. The value and the effective address of a resolved operand (spec/30_encoding.md R77,
spec/41_data_transfer.md R130). -/

namespace Sys2Proof.Machine

/-- `val` of an operand of a Data-width field: the register's byte, or the immediate's
(spec/30_encoding.md R77, R78). An immediate above 0xFF, which no word decodes to, counts by its low
8 bits (assumption 38). -/
def State.operandValue (s : State) : Operand → Byte
  | .reg r => s.reg r
  | .imm v => v.setWidth 8

/-- The address in a register, its 8-bit value widened with zeros (spec/41_data_transfer.md R130,
decision D4, assumption 4). -/
def State.indirectAddr (s : State) (r : Reg) : Addr :=
  (s.reg r).setWidth 12

/-- `AddrOf`: direct, or register-indirect (spec/41_data_transfer.md R130). -/
def State.addrOf (s : State) : Operand → Addr
  | .reg r => s.indirectAddr r
  | .imm a => a

end Sys2Proof.Machine
end

