-- ==== Sys2Proof/Machine/DataTransfer.lean ====
section
/-! DEFINITION. LDR, LDM, STI and STR (spec/41_data_transfer.md R131 to R134). -/

namespace Sys2Proof.Machine

/-- LDR: `x[D] <- val(src)` (spec/41_data_transfer.md R131). -/
def execLdr (d : Reg) (src : Operand) (s : State) : Host.Outcome State Fault Refusal :=
  .next (s.setReg d (s.operandValue src))

/-- LDM: `x[D] <- MemRead(AddrOf(src), 1)` (spec/41_data_transfer.md R132). -/
def execLdm (d : Reg) (src : Operand) (s : State) : Host.Outcome State Fault Refusal :=
  .next (s.setReg d (s.readByte (s.addrOf src)))

/-- STI: with M = 1 it halts and writes no byte; with M = 0 it stores `K` at `zext_12(x[D])`
(spec/41_data_transfer.md R133). -/
def execSti (d : Reg) (src : Operand) (s : State) : Host.Outcome State Fault Refusal :=
  match src with
  | .reg _ => .next (s.halt .illegalRuntimeAddressingMode 0x03#7 s.ia)
  | .imm _ => .next (s.writeByte (s.indirectAddr d) (s.operandValue src))

/-- STR: `MemWrite(AddrOf(dst), 1, x[S])` (spec/41_data_transfer.md R134). -/
def execStr (dst : Operand) (src : Reg) (s : State) : Host.Outcome State Fault Refusal :=
  .next (s.writeByte (s.addrOf dst) (s.reg src))

end Sys2Proof.Machine
end

