-- ==== Sys2Proof/Machine/Jumps.lean ====
section
/-! DEFINITION. JMP and the conditional jumps (spec/43_jumps.md R170 to R179). -/

namespace Sys2Proof.Machine

/-- JMP: `pc <- A12` (spec/43_jumps.md R171). -/
def execJmp (target : Addr) (s : State) : Host.Outcome State Fault Refusal :=
  .next (s.jumpIf true target)

/-- JZ: `if flags.Z = 1: pc <- A12` (spec/43_jumps.md R172). -/
def execJz (target : Addr) (s : State) : Host.Outcome State Fault Refusal :=
  .next (s.jumpIf s.flags.z target)

/-- JNZ: `if flags.Z = 0: pc <- A12` (spec/43_jumps.md R173). -/
def execJnz (target : Addr) (s : State) : Host.Outcome State Fault Refusal :=
  .next (s.jumpIf (!s.flags.z) target)

/-- JN: `if flags.N = 1: pc <- A12` (spec/43_jumps.md R174). -/
def execJn (target : Addr) (s : State) : Host.Outcome State Fault Refusal :=
  .next (s.jumpIf s.flags.n target)

/-- JNN: `if flags.N = 0: pc <- A12` (spec/43_jumps.md R175). -/
def execJnn (target : Addr) (s : State) : Host.Outcome State Fault Refusal :=
  .next (s.jumpIf (!s.flags.n) target)

/-- JC: `if flags.C = 1: pc <- A12` (spec/43_jumps.md R176). -/
def execJc (target : Addr) (s : State) : Host.Outcome State Fault Refusal :=
  .next (s.jumpIf s.flags.c target)

/-- JNC: `if flags.C = 0: pc <- A12` (spec/43_jumps.md R177). -/
def execJnc (target : Addr) (s : State) : Host.Outcome State Fault Refusal :=
  .next (s.jumpIf (!s.flags.c) target)

/-- JBE: `if flags.C = 1 or flags.Z = 1: pc <- A12` (spec/43_jumps.md R178). -/
def execJbe (target : Addr) (s : State) : Host.Outcome State Fault Refusal :=
  .next (s.jumpIf (condBelowOrEqual s.flags) target)

/-- JA: `if flags.C = 0 and flags.Z = 0: pc <- A12` (spec/43_jumps.md R179). -/
def execJa (target : Addr) (s : State) : Host.Outcome State Fault Refusal :=
  .next (s.jumpIf (condAbove s.flags) target)

end Sys2Proof.Machine
end

