-- ==== Sys2Proof/Machine/PortIo.lean ====
section
/-! DEFINITION. IN and OUT (spec/45_io.md R211, R212). -/

namespace Sys2Proof.Machine

/-- IN: `p <- val(src); x[D] <- IoIn(p)` (spec/45_io.md R211). -/
def execInPort (d : Reg) (port : Operand) (s : State) : Host.Outcome State Fault Refusal :=
  let p := s.operandValue port
  .next ((s.ioIn p).setReg d (s.ioInValue p))

/-- OUT: `p <- val(dst); IoOut(p, x[S])` (spec/45_io.md R212). -/
def execOutPort (port : Operand) (src : Reg) (s : State) : Host.Outcome State Fault Refusal :=
  .next (s.ioOut (s.operandValue port) (s.reg src))

end Sys2Proof.Machine
end

