-- ==== Sys2Proof/Machine/Stack.lean ====
section
/-! DEFINITION. PUSH, POP, CALL and RET (spec/44_stack_call.md R192 to R195). -/

namespace Sys2Proof.Machine

/-- PUSH: `Push8(val(dst))` (spec/44_stack_call.md R192). -/
def execPush (src : Operand) (s : State) : Host.Outcome State Fault Refusal :=
  .next (s.push8 (s.operandValue src))

/-- POP: `x[D] <- Pop8()` (spec/44_stack_call.md R193). -/
def execPop (d : Reg) (s : State) : Host.Outcome State Fault Refusal :=
  .next (s.popState.setReg d s.popValue)

/-- CALL: push the return address, low byte first, then `pc <- A12` (spec/44_stack_call.md R194). -/
def execCall (target : Addr) (s : State) : Host.Outcome State Fault Refusal :=
  .next (s.pushPc.setPc target)

/-- RET: pop the high byte, then the low byte, into `pc` (spec/44_stack_call.md R195). -/
def execRet (s : State) : Host.Outcome State Fault Refusal :=
  .next s.popPc

end Sys2Proof.Machine
end

