-- ==== Sys2Proof/Machine/Dispatch.lean ====
section
/-! DEFINITION. Dispatch: the handler of each defined opcode (spec/40_engine.md R113). The state is
the one after the fetch (spec/00_scope.md R13). -/

namespace Sys2Proof.Machine

def exec (i : Instr) (s : State) : Host.Outcome State Fault Refusal :=
  match i with
  | .hlt => Sys2Proof.Machine.execHlt s
  | .ldr d src => Sys2Proof.Machine.execLdr d src s
  | .ldm d src => Sys2Proof.Machine.execLdm d src s
  | .sti d src => Sys2Proof.Machine.execSti d src s
  | .str dst src => Sys2Proof.Machine.execStr dst src s
  | .add d src => Sys2Proof.Machine.execAdd d src s
  | .sub d src => Sys2Proof.Machine.execSub d src s
  | .cmp d src => Sys2Proof.Machine.execCmp d src s
  | .jz target => Sys2Proof.Machine.execJz target s
  | .jnz target => Sys2Proof.Machine.execJnz target s
  | .jn target => Sys2Proof.Machine.execJn target s
  | .jnn target => Sys2Proof.Machine.execJnn target s
  | .jc target => Sys2Proof.Machine.execJc target s
  | .jnc target => Sys2Proof.Machine.execJnc target s
  | .jbe target => Sys2Proof.Machine.execJbe target s
  | .ja target => Sys2Proof.Machine.execJa target s
  | .jmp target => Sys2Proof.Machine.execJmp target s
  | .push src => Sys2Proof.Machine.execPush src s
  | .pop d => Sys2Proof.Machine.execPop d s
  | .call target => Sys2Proof.Machine.execCall target s
  | .ret => Sys2Proof.Machine.execRet s
  | .inPort d port => Sys2Proof.Machine.execInPort d port s
  | .outPort port src => Sys2Proof.Machine.execOutPort port src s

end Sys2Proof.Machine
end

