-- ==== Sys2Proof/Machine/Engine.lean ====
section
/-! DEFINITION. The fetch-decode-execute control: fetching a word, sampling requests at the boundary,
and the step (spec/40_engine.md R110 to R114, R117; spec/60_exceptions.md R225 to R227). -/

namespace Sys2Proof.Machine

/-! ### Fetch -/

/-- The three bytes at `pc`, Byte0 at the lowest address, each address mod 4096
(spec/40_engine.md R111, spec/20_memory.md R54). -/
def State.fetchBytes (s : State) : Byte × Byte × Byte :=
  (s.readByte s.pc, s.readByte (s.pc + 1#12), s.readByte (s.pc + 2#12))

/-- The pc advance of a fetch, `(ia + 3) mod PC_WRAP_MODULUS` (spec/10_state.md R24, spec/40_engine.md
R111, decision D3). -/
def advancePc (wrap : Config.PcWrap) (ia : Addr) : Addr :=
  BitVec.ofNat 12 ((ia.toNat + 3) % wrap.modulus)

/-- What a fetch does to the state: it latches `ia` and advances `pc` (spec/40_engine.md R111). -/
def State.latchFetch (s : State) : State :=
  { s with ia := s.pc, pc := advancePc s.cfg.pcWrap s.pc }

/-- Decode and dispatch the word of three fetched bytes; a word whose opcode has no descriptor goes to
the Error handler (spec/40_engine.md R112 to R114). The state is the one after the fetch. -/
def runWord (b0 b1 b2 : Byte) (s : State) : Host.Outcome State Fault Refusal :=
  match decode b0 b1 b2 with
  | .instr i => exec i s
  | .illegalOpcode op => execIllegalOpcode op s

/-- Fetch, decode and execute one instruction: all three bytes are read before the handler runs
(spec/40_engine.md R110, R111; spec/20_memory.md R65). -/
def State.runInstruction (s : State) : Host.Outcome State Fault Refusal :=
  runWord s.fetchBytes.1 s.fetchBytes.2.1 s.fetchBytes.2.2 s.latchFetch

/-! ### The instruction boundary -/

/-- A syscall request is taken at this boundary (spec/60_exceptions.md R225). -/
def State.takesSyscall (s : State) : Bool :=
  s.sysPending && (!s.cfg.syscallMaskedByI || s.flags.i)

/-- An interrupt request is taken at this boundary, if no syscall request is
(spec/60_exceptions.md R225, R227). -/
def State.takesInterrupt (s : State) : Bool :=
  s.irqPending && s.flags.i

/-- An interrupt request sampled while I = 0 is dropped under Discard and kept under Hold
(spec/60_exceptions.md R225, decision D12). -/
def State.sampleMasked (s : State) : State :=
  match s.cfg.irqMasked with
  | .discard => if s.irqPending && !s.flags.i then s.setIrqPending false else s
  | .hold => s

/-- One step while Running: the boundary, then at most one trap entry or one instruction
(spec/40_engine.md R110). -/
def State.stepRunning (s : State) : Host.Outcome State Fault Refusal :=
  if s.takesSyscall then .next ((s.setSysPending false).trapEntry s.cfg.syscallVector)
  else if s.takesInterrupt then .next ((s.setIrqPending false).trapEntry s.cfg.intVector)
  else s.sampleMasked.runInstruction

/-- One step; in Halted there is none (spec/40_engine.md R110, R117). -/
def State.engineStep (s : State) : Host.Outcome State Fault Refusal :=
  match s.run with
  | .running => s.stepRunning
  | .halted => .fault .halted

/-! ### A word placed for the next fetch -/

/-- The bytes of a word numbered as spec/opcode_table.json numbers it, placed at `pc`
(spec/30_encoding.md R71, spec/20_memory.md R54). -/
def State.placeWord (word : BitVec 24) (s : State) : State :=
  ((s.writeByte s.pc (word.extractLsb' 16 8)).writeByte (s.pc + 1#12)
    (word.extractLsb' 8 8)).writeByte (s.pc + 2#12) (word.extractLsb' 0 8)

/-- The state in which the next step fetches: Running, its diagnostic None, no request latched. At
reset it changes nothing (assumption 28). -/
def State.readyToFetch (s : State) : State :=
  { s with
    run := .running
    diag := if s.run = .running then s.diag else ⟨.none, 0x00#7, 0x000#12⟩
    irqPending := false
    sysPending := false }

end Sys2Proof.Machine
end

