-- ==== Sys2Proof/Machine/Step.lean ====
section
/-! DEFINITION. The step of the machine (spec/40_engine.md R110) and the placing of one word for its
next fetch. -/

namespace Sys2Proof.Machine

/-- One step of the core (spec/40_engine.md R110): nothing in Halted; else one trap entry or one
instruction. -/
def step (s : State) : Host.Outcome State Fault Refusal :=
  s.engineStep

/-- `s` with the word `w` stored where the next step fetches, so that this step runs exactly it. It
stands for a load of a program from outside (assumption 28). -/
def State.withFetchWord (s : State) (nbits w : Nat) : State :=
  s.readyToFetch.placeWord (BitVec.ofNat 24 (w % 2 ^ nbits))

end Sys2Proof.Machine
end

