-- ==== Sys2Proof/Machine/HostInterface.lean ====
section
/-! DEFINITION. What the host can do to the core between steps (spec/00_scope.md R8): loading an image,
raising requests, writing the interrupt enable, reading the status. -/

namespace Sys2Proof.Machine

/-- A host action between steps (spec/00_scope.md R8). -/
inductive HostAction where
  /-- The interrupt request: `irq_pending <- 1` (spec/60_exceptions.md R223). -/
  | raiseInterrupt
  /-- The syscall request: `sys_pending <- 1` (spec/60_exceptions.md R223). -/
  | raiseSyscall
  /-- The interrupt-enable write: `flags.I <- b` (spec/60_exceptions.md R224). -/
  | writeInterruptEnable (b : Bool)
  deriving DecidableEq, Repr

/-- The effect of a host action, the same in Running and in Halted. That a request raised in Halted sets
its pending bit is spec/40_engine.md R117; that the interrupt-enable write writes I in Halted too is a
DESIGN CHOICE of the model, since R8 says only "between steps" (assumption 40, unsafe). -/
def State.hostAct (a : HostAction) (s : State) : State :=
  match a with
  | .raiseInterrupt => s.setIrqPending true
  | .raiseSyscall => s.setSysPending true
  | .writeInterruptEnable b => s.setFlags { s.flags with i := b }

/-- The status the host can read at any time: run state and halt diagnostic (spec/00_scope.md R8). -/
def State.status (s : State) : RunState × Diag :=
  (s.run, s.diag)

/-- The values that a load draws under `RESET_VALUE_POLICY` = Unspecified: any value each
(spec/10_state.md R39, assumption 35). Byte `i` of `mem` is the draw for address `i`. -/
structure ResetDraw where
  x : Regs
  sp : Byte
  flags : Flags
  mem : List Byte
  deriving DecidableEq, Repr

/-- The state that a load starts from, before the image is placed: the values of spec/10_state.md
R39, with the rows marked D5 and D6 drawn under Unspecified. The parameters and the count of draws
are kept; nothing else of the earlier state is. -/
def State.resetFrom (draw : ResetDraw) (s : State) : State :=
  match s.cfg.resetPolicy with
  | .zero => { State.reset with cfg := s.cfg, draws := s.draws }
  | .unspecified =>
    { State.reset with
      x := draw.x
      sp := draw.sp
      flags := draw.flags
      mem := Memory.place 0 (draw.mem.take 4096) []
      cfg := s.cfg
      draws := s.draws }

/-- Load/reset: an image longer than 4096 bytes is refused with no state created; any other is placed
from address 0 and the core starts at `pc` = 0 (spec/70_reset_and_hazards.md R250, R251). -/
def State.load (draw : ResetDraw) (image : List Byte) (s : State) : Host.Outcome State Fault Refusal :=
  if image.length ≤ 4096 then
    .next { s.resetFrom draw with mem := Memory.place 0 image (s.resetFrom draw).mem }
  else .refused .resourceExhausted

end Sys2Proof.Machine
end

