-- ==== Sys2Proof/Safety.lean ====
section
/-! DEFINITION. The terms in which statements about the core are made: what stays the same between two
states, the invariants of the state, the states that a run can reach, and the bits of a word that an
instruction uses. -/

namespace Sys2Proof.Machine

/-! ### What stays the same -/

/-- Every general register but those listed keeps its value. -/
def SameRegsExcept (written : List Reg) (s t : State) : Prop :=
  ∀ r : Reg, r ∉ written → t.reg r = s.reg r

/-- Every byte of memory but those at the listed addresses reads as before. -/
def SameMemoryExcept (stored : List Addr) (s t : State) : Prop :=
  ∀ a : Addr, a ∉ stored → t.readByte a = s.readByte a

/-- Neither the run state, the diagnostic, the two request latches, the `ia` latch nor the parameters
change. -/
structure SameSystem (s t : State) : Prop where
  run : t.run = s.run
  diag : t.diag = s.diag
  irqPending : t.irqPending = s.irqPending
  sysPending : t.sysPending = s.sysPending
  ia : t.ia = s.ia
  cfg : t.cfg = s.cfg

/-- No port transaction took place. -/
structure SamePorts (s t : State) : Prop where
  events : t.events = s.events
  draws : t.draws = s.draws

/-- Of the state `s`, an instruction changed at most the listed registers and the bytes at the listed
addresses: `pc`, `sp`, the flags, the system elements and the ports are as before. -/
structure OnlyWrites (regs : List Reg) (stored : List Addr) (s t : State) : Prop where
  regs : SameRegsExcept regs s t
  memory : SameMemoryExcept stored s t
  pc : t.pc = s.pc
  sp : t.sp = s.sp
  flags : t.flags = s.flags
  system : SameSystem s t
  ports : SamePorts s t

/-- `t` is `s` halted with a diagnostic: nothing else differs (spec/40_engine.md R115). -/
structure HaltedWith (d : Diag) (s t : State) : Prop where
  run : t.run = .halted
  diag : t.diag = d
  regs : SameRegsExcept [] s t
  memory : SameMemoryExcept [] s t
  pc : t.pc = s.pc
  sp : t.sp = s.sp
  flags : t.flags = s.flags
  irqPending : t.irqPending = s.irqPending
  sysPending : t.sysPending = s.sysPending
  ia : t.ia = s.ia
  cfg : t.cfg = s.cfg
  ports : SamePorts s t

/-- The address of a stack slot counted from `sp`: `0xF00 + (sp + k) mod 256` (spec/10_state.md R31). -/
def slotAddr (s : State) (k : Byte) : Addr :=
  0xF00#12 + (s.sp + k).setWidth 12

/-- The two bytes of `pc` lie at the two slots from `sp`, low byte first (spec/20_memory.md R55), and
`sp` has advanced by 2 mod 256. -/
structure PcPushed (s t : State) : Prop where
  low : t.readByte (slotAddr s 0#8) = s.pc.extractLsb' 0 8
  high : t.readByte (slotAddr s 1#8) = (s.pc.extractLsb' 8 4).setWidth 8
  sp : t.sp = s.sp + 2#8

/-- `t` is `s` after entering a trap through the vector at `v` (spec/60_exceptions.md R228, R229),
but for the request latches. The vector is read after the pushes; `s` has a canonical memory. -/
structure TrapEntered (v : Addr) (s t : State) : Prop where
  pushed : PcPushed s t
  memory : SameMemoryExcept [slotAddr s 0#8, slotAddr s 1#8] s t
  littlePc : s.cfg.vectorOrder = .little →
    t.pc.toNat = ((t.readByte (v + 1#12)).toNat * 256 + (t.readByte v).toNat) % 4096
  bigPc : s.cfg.vectorOrder = .big →
    t.pc.toNat = ((t.readByte v).toNat * 256 + (t.readByte (v + 1#12)).toNat) % 4096
  zeroFlag : t.flags.z = s.flags.z
  carryFlag : t.flags.c = s.flags.c
  negativeFlag : t.flags.n = s.flags.n
  enableFlag : t.flags.i = (s.flags.i && !s.cfg.entryClearsI)
  regs : SameRegsExcept [] s t
  run : t.run = s.run
  diag : t.diag = s.diag
  ia : t.ia = s.ia
  cfg : t.cfg = s.cfg
  ports : SamePorts s t

/-! ### Invariants and reachable states -/

/-- The diagnostic is None exactly while the machine runs (spec/10_state.md R33). -/
def DiagMatchesRun (s : State) : Prop :=
  s.diag.kind = .none ↔ s.run = .running

/-- At most one of Z, C and N is 1 (spec/10_state.md R28, spec/42_alu.md R150). -/
def FlagsExclusive (f : Flags) : Prop :=
  ¬(f.z = true ∧ f.c = true) ∧ ¬(f.z = true ∧ f.n = true) ∧ ¬(f.c = true ∧ f.n = true)

/-- The invariant of the core: canonical memory, and a diagnostic that matches the run state. -/
structure Inv (s : State) : Prop where
  memory : s.mem.wf = true
  diag : DiagMatchesRun s

/-- The states of a run under any settings of the parameters: from reset, by steps, by host actions
between steps and by loads of any image (spec/00_scope.md R6, R8). -/
inductive Reachable : State → Prop where
  | reset (cfg : Config.Params) : Reachable { State.reset with cfg := cfg }
  | step {s t : State} : Reachable s → Machine.step s = .next t → Reachable t
  | host {s : State} (a : HostAction) : Reachable s → Reachable (s.hostAct a)
  | load {s t : State} (draw : ResetDraw) (image : List Byte) :
      Reachable s → s.load draw image = .next t → Reachable t

/-- A request is taken at the boundary that `s` stands at (spec/60_exceptions.md R225). -/
def TrapDue (s : State) : Prop :=
  (s.sysPending = true ∧ (s.cfg.syscallMaskedByI = true → s.flags.i = true)) ∨
    (s.irqPending = true ∧ s.flags.i = true)

/-- The instruction word that `s` would fetch decodes to this. -/
def wordAt (s : State) : Decoded :=
  decode (s.readByte s.pc) (s.readByte (s.pc + 1#12)) (s.readByte (s.pc + 2#12))

/-! ### The bits an instruction uses -/

/-- A 24-bit word split into its bytes in fetch order (spec/30_encoding.md R71). -/
def runWord24 (w : BitVec 24) (s : State) : Host.Outcome State Fault Refusal :=
  runWord (w.extractLsb' 16 8) (w.extractLsb' 8 8) (w.extractLsb' 0 8) s

/-- The bits of a word that its instruction uses, given op and M: the table of spec/30_encoding.md
R82. Of a word with an undefined op only op counts (R80). -/
def usedBits (op : Opcode) (m : Bool) : BitVec 24 :=
  match op.toNat with
  | 0x01 | 0x15 => if m then 0xFFF000#24 else 0xFFC0FF#24
  | 0x02 => if m then 0xFFF000#24 else 0xFFCFFF#24
  | 0x03 => 0xFFC0FF#24
  | 0x04 => if m then 0xFFF000#24 else 0xFF3FFF#24
  | 0x05 | 0x06 | 0x07 => 0x7FF000#24
  | 0x08 | 0x09 | 0x0A | 0x0B | 0x0C | 0x0D | 0x0E | 0x0F | 0x10 | 0x13 => 0x7F0FFF#24
  | 0x11 => if m then 0xFFC000#24 else 0xFF00FF#24
  | 0x12 => 0x7FC000#24
  | 0x16 => if m then 0xFFF000#24 else 0xFF30FF#24
  | _ => 0x7F0000#24

end Sys2Proof.Machine
end

