-- ==== Sys2Proof/Certificates/Slice0/Obligations.lean ====
section
/-! DEFINITION. The statements about the Femto core for the provers. A statement that cites a rule in
OBLIGATIONS.json states that rule; where a clause rests on a decision of spec/92_eei_decisions.md, its
docstring names the decision and the log entry. -/

open Sys2Proof
open Sys2Proof.Machine

/-! ### Encoding and decoding -/

/-- Decoding an encoded well-formed instruction gives it back, for all 23 instructions and every
operand. It rests on the opcode numbers and field modes of decisions D1 and D2 (assumptions 1, 2). -/
def Obligations.DecodeEncodeRoundTrip : Prop :=
  ∀ i : Instr, i.wellFormed = true →
    decode (encode i).1 (encode i).2.1 (encode i).2.2 = .instr i

/-- Whatever three bytes decode to is well formed, so a step never runs an ill-formed term. -/
def Obligations.DecodedInstructionsWellFormed : Prop :=
  ∀ (b0 b1 b2 : Byte) (i : Instr), decode b0 b1 b2 = .instr i → i.wellFormed = true

/-- spec/30_encoding.md R72: Decode reads every field of any three bytes, as numbers. -/
def Obligations.DecodeReadsEveryField : Prop :=
  ∀ b0 b1 b2 : Byte,
    ((decodeFields b0 b1 b2).m = true ↔ 0x80 ≤ b0.toNat) ∧
    (decodeFields b0 b1 b2).op.toNat = b0.toNat % 0x80 ∧
    (decodeFields b0 b1 b2).d.toNat = b1.toNat / 64 ∧
    (decodeFields b0 b1 b2).s.toNat = b1.toNat / 16 % 4 ∧
    (decodeFields b0 b1 b2).k = b2 ∧
    (decodeFields b0 b1 b2).a12.toNat = b1.toNat % 16 * 256 + b2.toNat

/-- spec/30_encoding.md R73: Encode packs the fields; an instruction of width Data has its AH 0, and
one with no immediate has the whole value field 0. -/
def Obligations.EncodePacksFields : Prop :=
  (∀ (op : Opcode) (m : Bool) (d s : BitVec 2) (v : Addr),
    (encodeFields op m d s v).1.toNat = (if m then 0x80 else 0) + op.toNat ∧
    (encodeFields op m d s v).2.1.toNat = d.toNat * 64 + s.toNat * 16 + v.toNat / 256 ∧
    (encodeFields op m d s v).2.2.toNat = v.toNat % 256) ∧
  (∀ (i : Instr) (desc : Descriptor), i.wellFormed = true → desc ∈ descriptors →
    desc.mnemonic = i.mnemonic → desc.width = .data → (encode i).2.1.toNat % 16 = 0) ∧
  (∀ i : Instr, (∀ v : Addr, i.operands.1 ≠ some (.imm v) ∧ i.operands.2 ≠ some (.imm v)) →
    (encode i).2.1.toNat % 16 = 0 ∧ (encode i).2.2.toNat = 0)

/-- Packing and unpacking the fields of a word are inverse to each other, both ways
(spec/30_encoding.md R92, which the spec marks derived). -/
def Obligations.FieldsRoundTrip : Prop :=
  (∀ (op : Opcode) (m : Bool) (d s : BitVec 2) (v : Addr),
    decodeFields (encodeFields op m d s v).1 (encodeFields op m d s v).2.1
      (encodeFields op m d s v).2.2 = ⟨op, m, d, s, v.extractLsb' 0 8, v⟩) ∧
  (∀ b0 b1 b2 : Byte,
    encodeFields (decodeFields b0 b1 b2).op (decodeFields b0 b1 b2).m (decodeFields b0 b1 b2).d
      (decodeFields b0 b1 b2).s (decodeFields b0 b1 b2).a12 = (b0, b1, b2))

/-- The decoder agrees with the descriptor table and the addressing-mode resolver on every word: the
row of the opcode gives the mnemonic, and its field modes and width give both operands
(spec/30_encoding.md R76, R77; the table is decisions D1 and D2, assumptions 1, 2). -/
def Obligations.DecodeFollowsDescriptors : Prop :=
  ∀ b0 b1 b2 : Byte,
    match descriptorOf (decodeFields b0 b1 b2).op with
    | none => decode b0 b1 b2 = .illegalOpcode (decodeFields b0 b1 b2).op
    | some desc =>
      ∃ i : Instr, decode b0 b1 b2 = .instr i ∧ i.mnemonic = desc.mnemonic ∧
        i.operands =
          (resolve desc.destMode (decodeFields b0 b1 b2).d desc.width (decodeFields b0 b1 b2),
            resolve desc.srcMode (decodeFields b0 b1 b2).s desc.width (decodeFields b0 b1 b2))

/-- A word whose op has no descriptor is illegal, whatever its M, and executing it halts the machine with
IllegalOpcode (spec/30_encoding.md R80). That these are exactly the ops 0x17..0x7F, so that every op below
0x17 has a descriptor, rests on the opcode numbers of R76 and R79, which are decision D1 (assumption 1):
another OPCODE_ASSIGNMENT would change the set. -/
def Obligations.UndefinedOpcodesAreIllegal : Prop :=
  ∀ b0 b1 b2 : Byte,
    (descriptorOf (decodeFields b0 b1 b2).op = none ↔ 0x17 ≤ b0.toNat % 0x80) ∧
    (decode b0 b1 b2 = .illegalOpcode (decodeFields b0 b1 b2).op ↔ 0x17 ≤ b0.toNat % 0x80) ∧
    (0x17 ≤ b0.toNat % 0x80 → ∀ s : State, ∃ t : State,
      runWord b0 b1 b2 s = .next t ∧ t.run = .halted ∧ t.diag.kind = .illegalOpcode)

/-- A few words written out from spec/95_test_vectors.md decode to the instructions they stand for. -/
def Obligations.KnownWordsDecode : Prop :=
  decode 0x01#8 0x00#8 0x05#8 = .instr (.ldr .r0 (.imm 0x005#12)) ∧
  decode 0x84#8 0x40#8 0x00#8 = .instr (.str (.reg .r1) .r0) ∧
  decode 0x05#8 0x10#8 0x00#8 = .instr (.add .r0 .r1) ∧
  decode 0x13#8 0x06#8 0x66#8 = .instr (.call 0x666#12) ∧
  decode 0x16#8 0xFF#8 0x41#8 = .instr (.outPort (.imm 0x041#12) .r3) ∧
  decode 0x97#8 0x00#8 0x00#8 = .illegalOpcode 0x17#7

/-- Bits that an instruction does not use never change what its word does: two words that agree in
their opcode, in the mode bit and in the bits used run alike in every state (spec/30_encoding.md R82, decision
D10, assumption 10). -/
def Obligations.IgnoredBitsNeverMatter : Prop :=
  ∀ (w w' : BitVec 24) (s : State),
    w &&& usedBits (w.extractLsb' 16 7) (w.getLsbD 23) =
      w' &&& usedBits (w.extractLsb' 16 7) (w.getLsbD 23) →
    runWord24 w s = runWord24 w' s

/-! ### The step -/

/-- A step that takes no request runs the instruction the three bytes at `pc` decode to, on the state
after the fetch: `ia` latched, `pc` advanced by 3 mod PC_WRAP_MODULUS, a masked interrupt request
dropped under Discard (spec/40_engine.md R110 to R113; decisions D3, D8, D11, D12, assumptions 3, 8,
11, 12). -/
def Obligations.StepRunsDecodedInstruction : Prop :=
  ∀ (s : State) (i : Instr), s.run = .running → ¬TrapDue s →
    decode (s.readByte s.pc) (s.readByte (s.pc + 1#12)) (s.readByte (s.pc + 2#12)) = .instr i →
    i.wellFormed = true →
    step s = exec i { s with
      ia := s.pc
      pc := BitVec.ofNat 12 ((s.pc.toNat + 3) % s.cfg.pcWrap.modulus)
      irqPending := s.irqPending && decide (s.cfg.irqMasked = .hold) }

/-- A step that fetches a word with an undefined opcode halts: `diag` records IllegalOpcode, the op and
the address of the word, `pc` stays at the word's end, and nothing else changes but a masked request
(spec/40_engine.md R114, R115; decisions D8, D9, D31, assumptions 8, 9, 30). -/
def Obligations.StepHaltsOnUndefinedOpcode : Prop :=
  ∀ s : State, s.run = .running → ¬TrapDue s → 0x17 ≤ (s.readByte s.pc).toNat % 0x80 →
    ∃ t : State, step s = .next t ∧
      HaltedWith ⟨.illegalOpcode, (s.readByte s.pc).extractLsb' 0 7, s.pc⟩
        { s with
          ia := s.pc
          pc := BitVec.ofNat 12 ((s.pc.toNat + 3) % s.cfg.pcWrap.modulus)
          irqPending := s.irqPending && decide (s.cfg.irqMasked = .hold) } t

/-- While Running a step always answers a next state; in Halted there is none (spec/40_engine.md R110,
R117; that the model's step then answers a fault is its own form, decision D26, assumption 25). -/
def Obligations.RunningStepsAndHaltedDoesNot : Prop :=
  (∀ s : State, s.run = .running → ∃ t : State, step s = .next t) ∧
  (∀ s : State, s.run = .halted → step s = .fault .halted)

/-- The machine halts only by HLT, by STI with a register source, or by an undefined opcode
(spec/60_exceptions.md R221; that there is no other condition is decision D32, assumption 31). -/
def Obligations.OnlyThreeWaysToHalt : Prop :=
  ∀ s t : State, step s = .next t → t.run = .halted →
    ¬TrapDue s ∧
    (wordAt s = .instr .hlt ∨ (∃ d r : Reg, wordAt s = .instr (.sti d (.reg r))) ∨
      ∃ op : Opcode, wordAt s = .illegalOpcode op)

/-! ### Traps -/

/-- A pending syscall request is taken at the boundary, before any interrupt request and before the
fetch; its latch is cleared and an interrupt request stays pending (spec/60_exceptions.md R225 to
R229; decisions D11, D14, D15, D16, D18, D20, assumptions 11, 14, 15, 16, 18, 19). -/
def Obligations.SyscallTrapIsTakenFirst : Prop :=
  ∀ s : State, s.mem.wf = true → s.run = .running → s.sysPending = true →
    (s.cfg.syscallMaskedByI = true → s.flags.i = true) →
    ∃ t : State, step s = .next t ∧ TrapEntered s.cfg.syscallVector s t ∧
      t.sysPending = false ∧ t.irqPending = s.irqPending

/-- An enabled interrupt request is taken at the boundary when no syscall request is; its latch is
cleared (spec/60_exceptions.md R225 to R229; decisions D11, D14, D15, D16, D18, D20, assumptions 11,
14, 15, 16, 18, 19). -/
def Obligations.EnabledInterruptTrapIsTaken : Prop :=
  ∀ s : State, s.mem.wf = true → s.run = .running → s.irqPending = true → s.flags.i = true →
    s.sysPending = false →
    ∃ t : State, step s = .next t ∧ TrapEntered s.cfg.intVector s t ∧
      t.irqPending = false ∧ t.sysPending = false

/-- An interrupt request sampled while I = 0 is dropped under Discard and kept under Hold, whatever
instruction the step then runs (spec/60_exceptions.md R225, decision D12, assumption 12). -/
def Obligations.MaskedInterruptDroppedOrHeld : Prop :=
  ∀ s t : State, s.irqPending = true → s.flags.i = false → ¬TrapDue s → step s = .next t →
    (t.irqPending = true ↔ s.cfg.irqMasked = .hold)

/-- With both requests pending and I = 1, two steps enter the syscall trap and then the interrupt
trap, before any handler instruction runs (spec/60_exceptions.md R227, decisions D15, D16, assumptions
15, 16). -/
def Obligations.BothRequestsTakeTwoSteps : Prop :=
  ∀ s : State, s.mem.wf = true → s.run = .running → s.sysPending = true → s.irqPending = true →
    s.flags.i = true → s.cfg.entryClearsI = false →
    ∃ t u : State, step s = .next t ∧ step t = .next u ∧
      TrapEntered s.cfg.syscallVector s t ∧ TrapEntered s.cfg.intVector t u ∧
      u.sysPending = false ∧ u.irqPending = false ∧ u.sp = s.sp + 4#8

/-- RET in a handler that left the stack and `sp` as the trap entry made them resumes at the
interrupted address, with `sp` restored and the flags of the handler kept (spec/60_exceptions.md R231,
decision D21, assumption 19). -/
def Obligations.RetReturnsFromTrap : Prop :=
  ∀ (s u : State) (v : Addr), s.mem.wf = true → u.mem = (s.trapEntry v).mem →
    u.sp = (s.trapEntry v).sp →
    ∃ t : State, exec .ret u = .next t ∧ t.pc = s.pc ∧ t.sp = s.sp ∧ t.flags = u.flags

/-! ### Memory -/

/-- spec/20_memory.md R50: each of the 4096 bytes is readable and writable, and none is reserved: a
write to any address reads back there and changes no other byte. -/
def Obligations.EveryByteIsReadableAndWritable : Prop :=
  ∀ (s : State) (a : Addr) (v : Byte), s.mem.wf = true →
    (s.writeByte a v).readByte a = v ∧
    ∀ b : Addr, b ≠ a → (s.writeByte a v).readByte b = s.readByte b

/-- Memories in canonical form that read alike at every address are equal data. -/
def Obligations.CanonicalMemoriesReadAlikeAreEqual : Prop :=
  ∀ m m' : Memory, m.wf = true → m'.wf = true → (∀ a : Addr, m.read a.toNat = m'.read a.toNat) →
    m = m'

/-- A store into the word at `pc` is what the next fetch reads there (spec/20_memory.md R65, decision
D28, assumption 27). -/
def Obligations.FetchSeesEarlierStore : Prop :=
  ∀ (s t : State) (r : Reg) (a : Addr), s.mem.wf = true → exec (.str (.imm a) r) s = .next t →
    (t.pc = a → t.fetchBytes.1 = s.reg r) ∧
    (t.pc + 1#12 = a → t.fetchBytes.2.1 = s.reg r) ∧
    (t.pc + 2#12 = a → t.fetchBytes.2.2 = s.reg r)

/-! ### Invariants -/

/-- Every step keeps the memory in canonical form, from every state. -/
def Obligations.StepKeepsMemoryCanonical : Prop :=
  ∀ s t : State, s.mem.wf = true → step s = .next t → t.mem.wf = true

/-- Every step keeps the diagnostic None exactly while the machine runs (spec/10_state.md R33, decision
D31, assumption 30). -/
def Obligations.StepKeepsDiagMatchingRun : Prop :=
  ∀ s t : State, DiagMatchesRun s → step s = .next t → DiagMatchesRun t

/-- Every step keeps at most one of Z, C and N set (spec/42_alu.md R150, spec/10_state.md R28). -/
def Obligations.StepKeepsFlagsExclusive : Prop :=
  ∀ s t : State, FlagsExclusive s.flags → step s = .next t → FlagsExclusive t.flags

/-- No step changes the parameters of the machine; with UPDATEFLAGS_CLEARS_I and ENTRY_CLEARS_I false,
their defaults, no step changes I either (spec/10_state.md R29; decisions D7, D16, D22, assumptions 7,
16, 20, 33). -/
def Obligations.StepKeepsParametersAndEnable : Prop :=
  ∀ s t : State, step s = .next t →
    t.cfg = s.cfg ∧
    (s.cfg.updateFlagsClearsI = false → s.cfg.entryClearsI = false → t.flags.i = s.flags.i) ∧
    (t.flags.i = true → s.flags.i = true)

/-- The state after reset satisfies the invariant. -/
def Obligations.ResetSatisfiesInvariant : Prop :=
  Inv State.reset

/-- Every host action and every load that is not refused leaves a state with the invariant. -/
def Obligations.HostKeepsInvariant : Prop :=
  (∀ (s : State) (a : HostAction), Inv s → Inv (s.hostAct a)) ∧
  (∀ (s t : State) (draw : ResetDraw) (image : List Byte), s.load draw image = .next t → Inv t)

/-- Under any setting of the parameters, every state that steps, host actions and loads of any images
can reach in any order satisfies the invariant, and running it never answers a refusal. -/
def Obligations.ReachableStatesSatisfyInvariant : Prop :=
  ∀ s : State, Reachable s → Inv s ∧ ∀ r : Refusal, step s ≠ .refused r

/-! ### Who changes what -/

/-- Only ADD, SUB and CMP write a flag (spec/10_state.md R28; for instructions other than LDR the spec
takes it by decision D25, assumption 24). -/
def Obligations.OnlyAluWritesFlags : Prop :=
  ∀ (i : Instr) (s t : State), i.mnemonic ∉ ["ADD", "SUB", "CMP"] → exec i s = .next t →
    t.flags = s.flags

/-- Only PUSH, POP, CALL, RET and trap entry change `sp` (spec/10_state.md R31). -/
def Obligations.OnlyStackOperationsMoveSp : Prop :=
  ∀ s t : State, step s = .next t → t.sp ≠ s.sp →
    TrapDue s ∨
      ∃ i : Instr, wordAt s = .instr i ∧ i.mnemonic ∈ ["PUSH", "POP", "CALL", "RET"]

/-- Only STI, STR, PUSH, CALL and trap entry write memory, and PUSH, CALL and trap entry write only in
the stack region 0xF00..0xFFF (spec/20_memory.md R53, which the spec marks derived). -/
def Obligations.OnlyStoresWriteMemory : Prop :=
  ∀ s t : State, step s = .next t →
    (∀ a : Addr, t.readByte a ≠ s.readByte a → a.toNat < 0xF00 →
      ∃ i : Instr, wordAt s = .instr i ∧ i.mnemonic ∈ ["STI", "STR"]) ∧
    (∀ a : Addr, t.readByte a ≠ s.readByte a → TrapDue s ∨
      ∃ i : Instr, wordAt s = .instr i ∧ i.mnemonic ∈ ["STI", "STR", "PUSH", "CALL"])

/-- Only IN and OUT reach the ports, one byte and one 8-bit port number at a time, and neither changes
memory then (spec/20_memory.md R62; that transactions are recorded in `events` and draws counted is the
model's form, assumptions 21, 22). -/
def Obligations.OnlyInAndOutReachPorts : Prop :=
  ∀ s t : State, step s = .next t →
    (t.events = s.events ∧ t.draws = s.draws) ∨
    (∃ (d : Reg) (o : Operand) (p v : Byte), wordAt s = .instr (.inPort d o) ∧
      t.events = s.events ++ [.input p v] ∧ SameMemoryExcept [] s t) ∨
    (∃ (o : Operand) (r : Reg) (p v : Byte), wordAt s = .instr (.outPort o r) ∧
      t.events = s.events ++ [.output p v] ∧ SameMemoryExcept [] s t)

/-! ### Registers and the stack -/

/-- spec/10_state.md R21: four registers, selected by a 2-bit field with no translation, each holding
any 8-bit value, none hardwired and none an alias of another. -/
def Obligations.RegistersAreIndependent : Prop :=
  regOfBits 0#2 = .r0 ∧ regOfBits 1#2 = .r1 ∧ regOfBits 2#2 = .r2 ∧ regOfBits 3#2 = .r3 ∧
  ∀ (s : State) (r q : Reg) (v : Byte),
    (s.setReg r v).reg q = if q = r then v else s.reg q

/-- spec/44_stack_call.md R190: Push8 writes at `0xF00 + sp` and then increments `sp` mod 256. Nothing
else changes, so there is no overflow fault. -/
def Obligations.PushWritesThenIncrements : Prop :=
  ∀ (s : State) (v : Byte),
    (s.mem.wf = true → (s.push8 v).readByte (0xF00#12 + s.sp.setWidth 12) = v) ∧
    (s.push8 v).sp.toNat = (s.sp.toNat + 1) % 256 ∧
    SameMemoryExcept [0xF00#12 + s.sp.setWidth 12] s (s.push8 v) ∧
    SameRegsExcept [] s (s.push8 v) ∧ (s.push8 v).pc = s.pc ∧ (s.push8 v).flags = s.flags ∧
    SameSystem s (s.push8 v) ∧ SamePorts s (s.push8 v)

/-- spec/44_stack_call.md R191: Pop8 decrements `sp` mod 256 and then reads the byte at the new slot,
which stays in memory. Nothing else changes, so there is no underflow fault. -/
def Obligations.PopDecrementsThenReads : Prop :=
  ∀ s : State,
    s.popState.sp.toNat = (s.sp.toNat + 255) % 256 ∧
    s.popValue = s.readByte (0xF00#12 + s.popState.sp.setWidth 12) ∧
    SameMemoryExcept [] s s.popState ∧ SameRegsExcept [] s s.popState ∧
    s.popState.pc = s.pc ∧ s.popState.flags = s.flags ∧
    SameSystem s s.popState ∧ SamePorts s s.popState

/-- A POP right after a PUSH, with `sp` and memory as the PUSH left them, brings the pushed value into
its register and restores `sp`, at every `sp`, 0xFF included. -/
def Obligations.PopReturnsWhatPushPushed : Prop :=
  ∀ (s t u : State) (src : Operand) (d : Reg), s.mem.wf = true → exec (.push src) s = .next t →
    u.mem = t.mem → u.sp = t.sp →
    ∃ v : State, exec (.pop d) u = .next v ∧ v.reg d = s.operandValue src ∧ v.sp = s.sp

/-- A RET in a subroutine that left the stack and `sp` as the CALL made them returns to the word after
the CALL, at every `sp`, 0xFF included. -/
def Obligations.RetReturnsToCaller : Prop :=
  ∀ (s t u : State) (target : Addr), s.mem.wf = true → exec (.call target) s = .next t →
    u.mem = t.mem → u.sp = t.sp →
    ∃ v : State, exec .ret u = .next v ∧ v.pc = s.pc ∧ v.sp = s.sp

/-! ### The result of each instruction, and what it leaves alone

The state is the one after the fetch, so `s.pc` is already the address of the next word
(spec/00_scope.md R13). -/

/-- HLT halts with `diag` = (Hlt, 0x00, ia) and changes nothing else (spec/40_engine.md R116; decisions
D9, D31, assumptions 9, 30). -/
def Obligations.HltHalts : Prop :=
  ∀ s : State, ∃ t : State, exec .hlt s = .next t ∧ HaltedWith ⟨.hlt, 0x00#7, s.ia⟩ s t

/-- spec/41_data_transfer.md R131: words with op 0x01 are LDR, with the source a register when M = 1 and
K when M = 0; LDR sets `x[D]` to it and changes nothing else. -/
def Obligations.LdrLoadsValue : Prop :=
  (∀ b0 b1 b2 : Byte, (decodeFields b0 b1 b2).op = 0x01#7 →
    decode b0 b1 b2 = .instr (.ldr (regOfBits (decodeFields b0 b1 b2).d)
      (if (decodeFields b0 b1 b2).m then .reg (regOfBits (decodeFields b0 b1 b2).s)
        else .imm (b2.setWidth 12)))) ∧
  (∀ (d r : Reg) (s : State), ∃ t : State, exec (.ldr d (.reg r)) s = .next t ∧
    t.reg d = s.reg r ∧ OnlyWrites [d] [] s t) ∧
  (∀ (d : Reg) (k : Byte) (s : State), ∃ t : State,
    exec (.ldr d (.imm (k.setWidth 12))) s = .next t ∧ t.reg d = k ∧ OnlyWrites [d] [] s t)

/-- LDM sets `x[D]` to the byte at the address: `A12` direct, or the source register's value widened
with zeros; the address is formed before the write (spec/41_data_transfer.md R130, R132; decisions D4,
D25, assumptions 4, 24). -/
def Obligations.LdmLoadsByte : Prop :=
  (∀ (d : Reg) (a : Addr) (s : State), ∃ t : State, exec (.ldm d (.imm a)) s = .next t ∧
    t.reg d = s.readByte a ∧ OnlyWrites [d] [] s t) ∧
  (∀ (d r : Reg) (s : State), ∃ t : State, exec (.ldm d (.reg r)) s = .next t ∧
    t.reg d = s.readByte (BitVec.ofNat 12 (s.reg r).toNat) ∧ OnlyWrites [d] [] s t)

/-- STI with M = 0 stores K at the zero-widened value of `x[D]` (spec/41_data_transfer.md R133; decisions
D4, D34, assumptions 2, 4). -/
def Obligations.StiStoresImmediate : Prop :=
  ∀ (d : Reg) (k : Byte) (s : State), ∃ t : State,
    exec (.sti d (.imm (k.setWidth 12))) s = .next t ∧
    (s.mem.wf = true → t.readByte (BitVec.ofNat 12 (s.reg d).toNat) = k) ∧
    OnlyWrites [] [BitVec.ofNat 12 (s.reg d).toNat] s t

/-- STI with M = 1 halts with IllegalRuntimeAddressingMode, its own opcode and address, and writes no
byte (spec/41_data_transfer.md R133, spec/40_engine.md R115; decisions D8, D9, D31, D34, assumptions
2, 8, 9, 30). -/
def Obligations.StiWithRegisterModeHalts : Prop :=
  ∀ (d r : Reg) (s : State), ∃ t : State, exec (.sti d (.reg r)) s = .next t ∧
    HaltedWith ⟨.illegalRuntimeAddressingMode, 0x03#7, s.ia⟩ s t

/-- STR stores `x[S]` at `A12`, or at the zero-widened value of `x[D]` (spec/41_data_transfer.md R130,
R134; decisions D2, D4, D25, assumptions 2, 4, 24). -/
def Obligations.StrStoresRegister : Prop :=
  (∀ (a : Addr) (r : Reg) (s : State), ∃ t : State, exec (.str (.imm a) r) s = .next t ∧
    (s.mem.wf = true → t.readByte a = s.reg r) ∧ OnlyWrites [] [a] s t) ∧
  (∀ (d r : Reg) (s : State), ∃ t : State, exec (.str (.reg d) r) s = .next t ∧
    (s.mem.wf = true → t.readByte (BitVec.ofNat 12 (s.reg d).toNat) = s.reg r) ∧
    OnlyWrites [] [BitVec.ofNat 12 (s.reg d).toNat] s t)

/-- Words with op 0x05 are ADD whatever M; ADD sets `x[D]` to the sum of the unsigned operands mod 256, and
Z, N and C from the exact sum (spec/42_alu.md R151, R152). What becomes of I is decision D7 (assumption
7): kept by default, cleared under UPDATEFLAGS_CLEARS_I. -/
def Obligations.AddComputesSumAndFlags : Prop :=
  (∀ b0 b1 b2 : Byte, (decodeFields b0 b1 b2).op = 0x05#7 →
    decode b0 b1 b2 = .instr (.add (regOfBits (decodeFields b0 b1 b2).d)
      (regOfBits (decodeFields b0 b1 b2).s))) ∧
  (∀ (d r : Reg) (s : State), ∃ t : State, exec (.add d r) s = .next t ∧
    (t.reg d).toNat = ((s.reg d).toNat + (s.reg r).toNat) % 256 ∧
    (t.flags.z = true ↔ (s.reg d).toNat + (s.reg r).toNat = 0) ∧
    (t.flags.c = true ↔ 0xFF < (s.reg d).toNat + (s.reg r).toNat) ∧
    t.flags.n = false ∧
    t.flags.i = (s.flags.i && !s.cfg.updateFlagsClearsI) ∧
    SameRegsExcept [d] s t ∧ SameMemoryExcept [] s t ∧ t.pc = s.pc ∧ t.sp = s.sp ∧
    SameSystem s t ∧ SamePorts s t)

/-- SUB sets `x[D]` to the difference mod 256 and Z, N and C from the exact difference: Z for equal, N
for below, C never (spec/42_alu.md R151, R153; decisions D2, D7, assumptions 2, 7). -/
def Obligations.SubComputesDifferenceAndFlags : Prop :=
  ∀ (d r : Reg) (s : State), ∃ t : State, exec (.sub d r) s = .next t ∧
    (t.reg d).toNat = ((s.reg d).toNat + 256 - (s.reg r).toNat) % 256 ∧
    (t.flags.z = true ↔ s.reg d = s.reg r) ∧
    (t.flags.n = true ↔ (s.reg d).toNat < (s.reg r).toNat) ∧
    t.flags.c = false ∧
    t.flags.i = (s.flags.i && !s.cfg.updateFlagsClearsI) ∧
    SameRegsExcept [d] s t ∧ SameMemoryExcept [] s t ∧ t.pc = s.pc ∧ t.sp = s.sp ∧
    SameSystem s t ∧ SamePorts s t

/-- CMP sets the flags as SUB does and writes no register (spec/42_alu.md R154; decisions D2, D7,
assumptions 2, 7). -/
def Obligations.CmpSetsFlagsOnly : Prop :=
  ∀ (d r : Reg) (s : State), ∃ t : State, exec (.cmp d r) s = .next t ∧
    (t.flags.z = true ↔ s.reg d = s.reg r) ∧
    (t.flags.n = true ↔ (s.reg d).toNat < (s.reg r).toNat) ∧
    t.flags.c = false ∧
    t.flags.i = (s.flags.i && !s.cfg.updateFlagsClearsI) ∧
    SameRegsExcept [] s t ∧ SameMemoryExcept [] s t ∧ t.pc = s.pc ∧ t.sp = s.sp ∧
    SameSystem s t ∧ SamePorts s t

/-- Words with op 0x10 are JMP to A12 whatever M, D and S; JMP sets `pc` to A12 and changes nothing else
(spec/43_jumps.md R171; the opcode number is decision D1, the field modes D2, assumptions 1, 2). -/
def Obligations.JmpSetsPc : Prop :=
  (∀ b0 b1 b2 : Byte, (decodeFields b0 b1 b2).op = 0x10#7 →
    decode b0 b1 b2 = .instr (.jmp (decodeFields b0 b1 b2).a12)) ∧
  (∀ (a : Addr) (s : State), exec (.jmp a) s = .next { s with pc := a })

/-- Each conditional jump sets `pc` to its target when its condition on Z, N and C holds, and changes
nothing otherwise; it never writes a flag or a register (spec/43_jumps.md R170, R172 to R179; decisions
D1, D2, assumptions 1, 2). -/
def Obligations.ConditionalJumpsTestFlags : Prop :=
  ∀ (a : Addr) (s : State),
    exec (.jz a) s = .next { s with pc := if s.flags.z = true then a else s.pc } ∧
    exec (.jnz a) s = .next { s with pc := if s.flags.z = false then a else s.pc } ∧
    exec (.jn a) s = .next { s with pc := if s.flags.n = true then a else s.pc } ∧
    exec (.jnn a) s = .next { s with pc := if s.flags.n = false then a else s.pc } ∧
    exec (.jc a) s = .next { s with pc := if s.flags.c = true then a else s.pc } ∧
    exec (.jnc a) s = .next { s with pc := if s.flags.c = false then a else s.pc } ∧
    exec (.jbe a) s =
      .next { s with pc := if s.flags.c = true ∨ s.flags.z = true then a else s.pc } ∧
    exec (.ja a) s =
      .next { s with pc := if s.flags.c = false ∧ s.flags.z = false then a else s.pc }

/-- After SUB or CMP of `a` and `b`: JBE is taken exactly when they are equal, JA exactly when they are
not, JN exactly when `a` is below `b`, JC never, as the table of spec/43_jumps.md R180 has it (which the
spec marks derived). -/
def Obligations.JumpsAfterSubAndCmp : Prop :=
  ∀ (i : Instr) (d r : Reg) (target : Addr) (s t : State), i = .sub d r ∨ i = .cmp d r →
    exec i s = .next t →
    exec (.jz target) t = .next (t.setPc (if s.reg d = s.reg r then target else t.pc)) ∧
    exec (.jbe target) t = .next (t.setPc (if s.reg d = s.reg r then target else t.pc)) ∧
    exec (.ja target) t = .next (t.setPc (if s.reg d = s.reg r then t.pc else target)) ∧
    exec (.jn target) t =
      .next (t.setPc (if (s.reg d).toNat < (s.reg r).toNat then target else t.pc)) ∧
    exec (.jc target) t = .next t

/-- After ADD of `a` and `b`: JBE is taken exactly when the exact sum is 0 or above 0xFF, JA exactly when
it is in 1..0xFF, JC exactly when it is above 0xFF, JN never (spec/43_jumps.md R180, which the spec
marks derived). -/
def Obligations.JumpsAfterAdd : Prop :=
  ∀ (d r : Reg) (target : Addr) (s t : State), exec (.add d r) s = .next t →
    exec (.jbe target) t = .next (t.setPc
      (if (s.reg d).toNat + (s.reg r).toNat = 0 ∨ 255 < (s.reg d).toNat + (s.reg r).toNat
        then target else t.pc)) ∧
    exec (.ja target) t = .next (t.setPc
      (if 1 ≤ (s.reg d).toNat + (s.reg r).toNat ∧ (s.reg d).toNat + (s.reg r).toNat ≤ 255
        then target else t.pc)) ∧
    exec (.jc target) t = .next (t.setPc
      (if 255 < (s.reg d).toNat + (s.reg r).toNat then target else t.pc)) ∧
    exec (.jn target) t = .next t

/-- PUSH stores the register's value or K at the slot `0xF00 + sp` and increments `sp` mod 256
(spec/44_stack_call.md R190, R192; decision D25, assumption 24). -/
def Obligations.PushStoresOperand : Prop :=
  (∀ (r : Reg) (s : State), ∃ t : State, exec (.push (.reg r)) s = .next t ∧
    (s.mem.wf = true → t.readByte (slotAddr s 0#8) = s.reg r) ∧
    t.sp.toNat = (s.sp.toNat + 1) % 256 ∧
    OnlyWrites [] [slotAddr s 0#8] s { t with sp := s.sp }) ∧
  (∀ (k : Byte) (s : State), ∃ t : State, exec (.push (.imm (k.setWidth 12))) s = .next t ∧
    (s.mem.wf = true → t.readByte (slotAddr s 0#8) = k) ∧
    t.sp.toNat = (s.sp.toNat + 1) % 256 ∧
    OnlyWrites [] [slotAddr s 0#8] s { t with sp := s.sp })

/-- POP decrements `sp` mod 256 and loads `x[D]` from the slot it then addresses
(spec/44_stack_call.md R191, R193; decisions D2, D25, assumptions 2, 24). -/
def Obligations.PopLoadsRegister : Prop :=
  ∀ (d : Reg) (s : State), ∃ t : State, exec (.pop d) s = .next t ∧
    t.sp.toNat = (s.sp.toNat + 255) % 256 ∧
    t.reg d = s.readByte (slotAddr t 0#8) ∧
    OnlyWrites [d] [] s { t with sp := s.sp }

/-- CALL pushes the post-fetch `pc`, low byte first, and sets `pc` to A12 (spec/44_stack_call.md R194,
decision D20, assumption 19). -/
def Obligations.CallPushesReturnAddress : Prop :=
  ∀ (target : Addr) (s : State), ∃ t : State, exec (.call target) s = .next t ∧
    (s.mem.wf = true → PcPushed s t) ∧ t.sp = s.sp + 2#8 ∧ t.pc = target ∧
    OnlyWrites [] [slotAddr s 0#8, slotAddr s 1#8] s { t with pc := s.pc, sp := s.sp }

/-- RET pops the high byte, then the low byte, and sets `pc` to their 16-bit value mod 4096
(spec/44_stack_call.md R195, decision D19, assumption 19). -/
def Obligations.RetPopsPc : Prop :=
  ∀ s : State, ∃ t : State, exec .ret s = .next t ∧
    t.pc.toNat = ((s.readByte (slotAddr s 0xFF#8)).toNat * 256 +
      (s.readByte (slotAddr s 0xFE#8)).toNat) % 4096 ∧
    t.sp = s.sp - 2#8 ∧
    OnlyWrites [] [] s { t with pc := s.pc, sp := s.sp }

/-- IN reads the port number from its source before the write, sets `x[D]` to the byte that the
environment draws there and records the event; the byte is free (spec/45_io.md R210, R211; decisions
D23, D24, D25, assumptions 2, 21, 23, 24). -/
def Obligations.InLoadsDrawnByte : Prop :=
  ∀ (d : Reg) (port : Operand) (s : State), ∃ t : State, exec (.inPort d port) s = .next t ∧
    t.events = s.events ++ [.input (s.operandValue port) (t.reg d)] ∧
    t.reg d = Config.portInput s.draws (s.operandValue port) ∧
    t.draws = s.draws + 1 ∧
    OnlyWrites [d] [] s { t with events := s.events, draws := s.draws }

/-- OUT sends `x[S]` to the port that its destination gives, records the event and changes nothing in the
core (spec/45_io.md R210, R212; decisions D23, D24, D25, assumptions 2, 23, 24). -/
def Obligations.OutSendsByte : Prop :=
  (∀ (p r : Reg) (s : State), exec (.outPort (.reg p) r) s =
    .next { s with events := s.events ++ [.output (s.reg p) (s.reg r)] }) ∧
  (∀ (k : Byte) (r : Reg) (s : State), exec (.outPort (.imm (k.setWidth 12)) r) s =
    .next { s with events := s.events ++ [.output k (s.reg r)] })

/-! ### Reset, load and the host -/

/-- What reset leaves: Running, `pc` 0, diagnostic None; and, by the spec's decisions D5, D6, D8 and D11,
the registers, `sp`, the flags, the latches and every byte of memory 0 (spec/10_state.md R39,
assumptions 5, 6, 8, 11). -/
def Obligations.ResetLeavesTheseValues : Prop :=
  State.reset.run = .running ∧ State.reset.pc = 0x000#12 ∧ State.reset.diag.kind = .none ∧
  (∀ r : Reg, State.reset.reg r = 0x00#8) ∧ State.reset.sp = 0x00#8 ∧
  State.reset.flags.toByte = 0x00#8 ∧ State.reset.irqPending = false ∧
  State.reset.sysPending = false ∧ State.reset.ia = 0x000#12 ∧
  ∀ a : Addr, State.reset.readByte a = 0x00#8

/-- Loading an image of at most 4096 bytes puts its bytes from address 0 on, starts the core at 0, and
under RESET_VALUE_POLICY = Zero makes everything else 0, whatever the state before; a longer image is
refused (spec/70_reset_and_hazards.md R250, R251; decisions D5, D6, D29, assumptions 5, 6, 28). -/
def Obligations.LoadPlacesImage : Prop :=
  ∀ (s : State) (draw : ResetDraw) (image : List Byte),
    (image.length ≤ 4096 → ∃ t : State, s.load draw image = .next t ∧
      t.run = .running ∧ t.pc = 0x000#12 ∧ t.diag.kind = .none ∧
      t.irqPending = false ∧ t.sysPending = false ∧ t.cfg = s.cfg ∧
      (∀ a : Addr, a.toNat < image.length → t.readByte a = image.getD a.toNat 0x00#8) ∧
      (s.cfg.resetPolicy = .zero →
        (∀ a : Addr, image.length ≤ a.toNat → t.readByte a = 0x00#8) ∧
        (∀ r : Reg, t.reg r = 0x00#8) ∧ t.sp = 0x00#8 ∧ t.flags.toByte = 0x00#8)) ∧
    (4096 < image.length → s.load draw image = .refused .resourceExhausted)

/-- Under RESET_VALUE_POLICY = Unspecified the registers, `sp`, the flags and the bytes past the image
take whatever the load draws (spec/10_state.md R39; decisions D5, D6, assumption 35). -/
def Obligations.UnspecifiedLoadTakesDraws : Prop :=
  ∀ (s : State) (draw : ResetDraw) (image : List Byte), image.length ≤ 4096 →
    s.cfg.resetPolicy = .unspecified → ∃ t : State, s.load draw image = .next t ∧
      t.x = draw.x ∧ t.sp = draw.sp ∧ t.flags = draw.flags ∧
      ∀ a : Addr, image.length ≤ a.toNat → t.readByte a = draw.mem.getD a.toNat 0x00#8

/-- The host's requests set their latch and the interrupt-enable write writes I, in any run state; nothing
else changes (spec/00_scope.md R8, spec/60_exceptions.md R223, R224, spec/40_engine.md R117; decisions D13,
D22, assumptions 13, 20). That the write has its effect in Halted too is the model's choice (assumption
40). -/
def Obligations.HostActionsSetLatches : Prop :=
  ∀ s : State,
    s.hostAct .raiseInterrupt = { s with irqPending := true } ∧
    s.hostAct .raiseSyscall = { s with sysPending := true } ∧
    ∀ b : Bool, s.hostAct (.writeInterruptEnable b) = { s with flags := { s.flags with i := b } }
end

