-- ==== Sys2Proof/Laws/State.lean ====
section
/-! SUPPORT. What each update of the state does to each field, and to the reads of a register and of
a byte: one lemma per field per update, so that no proof unfolds a record update. -/

namespace Sys2Proof.Machine

/-! ### `State.writeByte` -/

@[simp] theorem State.writeByte_x (s : State) (a : Addr) (v : Byte) :
    (s.writeByte a v).x = s.x := rfl
@[simp] theorem State.writeByte_pc (s : State) (a : Addr) (v : Byte) :
    (s.writeByte a v).pc = s.pc := rfl
@[simp] theorem State.writeByte_sp (s : State) (a : Addr) (v : Byte) :
    (s.writeByte a v).sp = s.sp := rfl
@[simp] theorem State.writeByte_flags (s : State) (a : Addr) (v : Byte) :
    (s.writeByte a v).flags = s.flags := rfl
@[simp] theorem State.writeByte_run (s : State) (a : Addr) (v : Byte) :
    (s.writeByte a v).run = s.run := rfl
@[simp] theorem State.writeByte_mem (s : State) (a : Addr) (v : Byte) :
    (s.writeByte a v).mem = s.mem.write a.toNat v := rfl
@[simp] theorem State.writeByte_diag (s : State) (a : Addr) (v : Byte) :
    (s.writeByte a v).diag = s.diag := rfl
@[simp] theorem State.writeByte_irqPending (s : State) (a : Addr) (v : Byte) :
    (s.writeByte a v).irqPending = s.irqPending := rfl
@[simp] theorem State.writeByte_sysPending (s : State) (a : Addr) (v : Byte) :
    (s.writeByte a v).sysPending = s.sysPending := rfl
@[simp] theorem State.writeByte_ia (s : State) (a : Addr) (v : Byte) :
    (s.writeByte a v).ia = s.ia := rfl
@[simp] theorem State.writeByte_cfg (s : State) (a : Addr) (v : Byte) :
    (s.writeByte a v).cfg = s.cfg := rfl
@[simp] theorem State.writeByte_events (s : State) (a : Addr) (v : Byte) :
    (s.writeByte a v).events = s.events := rfl
@[simp] theorem State.writeByte_draws (s : State) (a : Addr) (v : Byte) :
    (s.writeByte a v).draws = s.draws := rfl
@[simp] theorem State.writeByte_reg (s : State) (a : Addr) (v : Byte) (q : Reg) :
    (s.writeByte a v).reg q = s.reg q := rfl

/-! ### `State.setReg` -/

@[simp] theorem State.setReg_x (s : State) (r : Reg) (v : Byte) :
    (s.setReg r v).x = s.x.set r v := rfl
@[simp] theorem State.setReg_pc (s : State) (r : Reg) (v : Byte) :
    (s.setReg r v).pc = s.pc := rfl
@[simp] theorem State.setReg_sp (s : State) (r : Reg) (v : Byte) :
    (s.setReg r v).sp = s.sp := rfl
@[simp] theorem State.setReg_flags (s : State) (r : Reg) (v : Byte) :
    (s.setReg r v).flags = s.flags := rfl
@[simp] theorem State.setReg_run (s : State) (r : Reg) (v : Byte) :
    (s.setReg r v).run = s.run := rfl
@[simp] theorem State.setReg_mem (s : State) (r : Reg) (v : Byte) :
    (s.setReg r v).mem = s.mem := rfl
@[simp] theorem State.setReg_diag (s : State) (r : Reg) (v : Byte) :
    (s.setReg r v).diag = s.diag := rfl
@[simp] theorem State.setReg_irqPending (s : State) (r : Reg) (v : Byte) :
    (s.setReg r v).irqPending = s.irqPending := rfl
@[simp] theorem State.setReg_sysPending (s : State) (r : Reg) (v : Byte) :
    (s.setReg r v).sysPending = s.sysPending := rfl
@[simp] theorem State.setReg_ia (s : State) (r : Reg) (v : Byte) :
    (s.setReg r v).ia = s.ia := rfl
@[simp] theorem State.setReg_cfg (s : State) (r : Reg) (v : Byte) :
    (s.setReg r v).cfg = s.cfg := rfl
@[simp] theorem State.setReg_events (s : State) (r : Reg) (v : Byte) :
    (s.setReg r v).events = s.events := rfl
@[simp] theorem State.setReg_draws (s : State) (r : Reg) (v : Byte) :
    (s.setReg r v).draws = s.draws := rfl
@[simp] theorem State.setReg_readByte (s : State) (r : Reg) (v : Byte) (q : Addr) :
    (s.setReg r v).readByte q = s.readByte q := rfl

/-! ### `State.setPc` -/

@[simp] theorem State.setPc_x (s : State) (a : Addr) :
    (s.setPc a).x = s.x := rfl
@[simp] theorem State.setPc_pc (s : State) (a : Addr) :
    (s.setPc a).pc = a := rfl
@[simp] theorem State.setPc_sp (s : State) (a : Addr) :
    (s.setPc a).sp = s.sp := rfl
@[simp] theorem State.setPc_flags (s : State) (a : Addr) :
    (s.setPc a).flags = s.flags := rfl
@[simp] theorem State.setPc_run (s : State) (a : Addr) :
    (s.setPc a).run = s.run := rfl
@[simp] theorem State.setPc_mem (s : State) (a : Addr) :
    (s.setPc a).mem = s.mem := rfl
@[simp] theorem State.setPc_diag (s : State) (a : Addr) :
    (s.setPc a).diag = s.diag := rfl
@[simp] theorem State.setPc_irqPending (s : State) (a : Addr) :
    (s.setPc a).irqPending = s.irqPending := rfl
@[simp] theorem State.setPc_sysPending (s : State) (a : Addr) :
    (s.setPc a).sysPending = s.sysPending := rfl
@[simp] theorem State.setPc_ia (s : State) (a : Addr) :
    (s.setPc a).ia = s.ia := rfl
@[simp] theorem State.setPc_cfg (s : State) (a : Addr) :
    (s.setPc a).cfg = s.cfg := rfl
@[simp] theorem State.setPc_events (s : State) (a : Addr) :
    (s.setPc a).events = s.events := rfl
@[simp] theorem State.setPc_draws (s : State) (a : Addr) :
    (s.setPc a).draws = s.draws := rfl
@[simp] theorem State.setPc_reg (s : State) (a : Addr) (q : Reg) :
    (s.setPc a).reg q = s.reg q := rfl
@[simp] theorem State.setPc_readByte (s : State) (a : Addr) (q : Addr) :
    (s.setPc a).readByte q = s.readByte q := rfl

/-! ### `State.setSp` -/

@[simp] theorem State.setSp_x (s : State) (v : Byte) :
    (s.setSp v).x = s.x := rfl
@[simp] theorem State.setSp_pc (s : State) (v : Byte) :
    (s.setSp v).pc = s.pc := rfl
@[simp] theorem State.setSp_sp (s : State) (v : Byte) :
    (s.setSp v).sp = v := rfl
@[simp] theorem State.setSp_flags (s : State) (v : Byte) :
    (s.setSp v).flags = s.flags := rfl
@[simp] theorem State.setSp_run (s : State) (v : Byte) :
    (s.setSp v).run = s.run := rfl
@[simp] theorem State.setSp_mem (s : State) (v : Byte) :
    (s.setSp v).mem = s.mem := rfl
@[simp] theorem State.setSp_diag (s : State) (v : Byte) :
    (s.setSp v).diag = s.diag := rfl
@[simp] theorem State.setSp_irqPending (s : State) (v : Byte) :
    (s.setSp v).irqPending = s.irqPending := rfl
@[simp] theorem State.setSp_sysPending (s : State) (v : Byte) :
    (s.setSp v).sysPending = s.sysPending := rfl
@[simp] theorem State.setSp_ia (s : State) (v : Byte) :
    (s.setSp v).ia = s.ia := rfl
@[simp] theorem State.setSp_cfg (s : State) (v : Byte) :
    (s.setSp v).cfg = s.cfg := rfl
@[simp] theorem State.setSp_events (s : State) (v : Byte) :
    (s.setSp v).events = s.events := rfl
@[simp] theorem State.setSp_draws (s : State) (v : Byte) :
    (s.setSp v).draws = s.draws := rfl
@[simp] theorem State.setSp_reg (s : State) (v : Byte) (q : Reg) :
    (s.setSp v).reg q = s.reg q := rfl
@[simp] theorem State.setSp_readByte (s : State) (v : Byte) (q : Addr) :
    (s.setSp v).readByte q = s.readByte q := rfl

/-! ### `State.setFlags` -/

@[simp] theorem State.setFlags_x (s : State) (f : Flags) :
    (s.setFlags f).x = s.x := rfl
@[simp] theorem State.setFlags_pc (s : State) (f : Flags) :
    (s.setFlags f).pc = s.pc := rfl
@[simp] theorem State.setFlags_sp (s : State) (f : Flags) :
    (s.setFlags f).sp = s.sp := rfl
@[simp] theorem State.setFlags_flags (s : State) (f : Flags) :
    (s.setFlags f).flags = f := rfl
@[simp] theorem State.setFlags_run (s : State) (f : Flags) :
    (s.setFlags f).run = s.run := rfl
@[simp] theorem State.setFlags_mem (s : State) (f : Flags) :
    (s.setFlags f).mem = s.mem := rfl
@[simp] theorem State.setFlags_diag (s : State) (f : Flags) :
    (s.setFlags f).diag = s.diag := rfl
@[simp] theorem State.setFlags_irqPending (s : State) (f : Flags) :
    (s.setFlags f).irqPending = s.irqPending := rfl
@[simp] theorem State.setFlags_sysPending (s : State) (f : Flags) :
    (s.setFlags f).sysPending = s.sysPending := rfl
@[simp] theorem State.setFlags_ia (s : State) (f : Flags) :
    (s.setFlags f).ia = s.ia := rfl
@[simp] theorem State.setFlags_cfg (s : State) (f : Flags) :
    (s.setFlags f).cfg = s.cfg := rfl
@[simp] theorem State.setFlags_events (s : State) (f : Flags) :
    (s.setFlags f).events = s.events := rfl
@[simp] theorem State.setFlags_draws (s : State) (f : Flags) :
    (s.setFlags f).draws = s.draws := rfl
@[simp] theorem State.setFlags_reg (s : State) (f : Flags) (q : Reg) :
    (s.setFlags f).reg q = s.reg q := rfl
@[simp] theorem State.setFlags_readByte (s : State) (f : Flags) (q : Addr) :
    (s.setFlags f).readByte q = s.readByte q := rfl

/-! ### `State.setIrqPending` -/

@[simp] theorem State.setIrqPending_x (s : State) (b : Bool) :
    (s.setIrqPending b).x = s.x := rfl
@[simp] theorem State.setIrqPending_pc (s : State) (b : Bool) :
    (s.setIrqPending b).pc = s.pc := rfl
@[simp] theorem State.setIrqPending_sp (s : State) (b : Bool) :
    (s.setIrqPending b).sp = s.sp := rfl
@[simp] theorem State.setIrqPending_flags (s : State) (b : Bool) :
    (s.setIrqPending b).flags = s.flags := rfl
@[simp] theorem State.setIrqPending_run (s : State) (b : Bool) :
    (s.setIrqPending b).run = s.run := rfl
@[simp] theorem State.setIrqPending_mem (s : State) (b : Bool) :
    (s.setIrqPending b).mem = s.mem := rfl
@[simp] theorem State.setIrqPending_diag (s : State) (b : Bool) :
    (s.setIrqPending b).diag = s.diag := rfl
@[simp] theorem State.setIrqPending_irqPending (s : State) (b : Bool) :
    (s.setIrqPending b).irqPending = b := rfl
@[simp] theorem State.setIrqPending_sysPending (s : State) (b : Bool) :
    (s.setIrqPending b).sysPending = s.sysPending := rfl
@[simp] theorem State.setIrqPending_ia (s : State) (b : Bool) :
    (s.setIrqPending b).ia = s.ia := rfl
@[simp] theorem State.setIrqPending_cfg (s : State) (b : Bool) :
    (s.setIrqPending b).cfg = s.cfg := rfl
@[simp] theorem State.setIrqPending_events (s : State) (b : Bool) :
    (s.setIrqPending b).events = s.events := rfl
@[simp] theorem State.setIrqPending_draws (s : State) (b : Bool) :
    (s.setIrqPending b).draws = s.draws := rfl
@[simp] theorem State.setIrqPending_reg (s : State) (b : Bool) (q : Reg) :
    (s.setIrqPending b).reg q = s.reg q := rfl
@[simp] theorem State.setIrqPending_readByte (s : State) (b : Bool) (q : Addr) :
    (s.setIrqPending b).readByte q = s.readByte q := rfl

/-! ### `State.setSysPending` -/

@[simp] theorem State.setSysPending_x (s : State) (b : Bool) :
    (s.setSysPending b).x = s.x := rfl
@[simp] theorem State.setSysPending_pc (s : State) (b : Bool) :
    (s.setSysPending b).pc = s.pc := rfl
@[simp] theorem State.setSysPending_sp (s : State) (b : Bool) :
    (s.setSysPending b).sp = s.sp := rfl
@[simp] theorem State.setSysPending_flags (s : State) (b : Bool) :
    (s.setSysPending b).flags = s.flags := rfl
@[simp] theorem State.setSysPending_run (s : State) (b : Bool) :
    (s.setSysPending b).run = s.run := rfl
@[simp] theorem State.setSysPending_mem (s : State) (b : Bool) :
    (s.setSysPending b).mem = s.mem := rfl
@[simp] theorem State.setSysPending_diag (s : State) (b : Bool) :
    (s.setSysPending b).diag = s.diag := rfl
@[simp] theorem State.setSysPending_irqPending (s : State) (b : Bool) :
    (s.setSysPending b).irqPending = s.irqPending := rfl
@[simp] theorem State.setSysPending_sysPending (s : State) (b : Bool) :
    (s.setSysPending b).sysPending = b := rfl
@[simp] theorem State.setSysPending_ia (s : State) (b : Bool) :
    (s.setSysPending b).ia = s.ia := rfl
@[simp] theorem State.setSysPending_cfg (s : State) (b : Bool) :
    (s.setSysPending b).cfg = s.cfg := rfl
@[simp] theorem State.setSysPending_events (s : State) (b : Bool) :
    (s.setSysPending b).events = s.events := rfl
@[simp] theorem State.setSysPending_draws (s : State) (b : Bool) :
    (s.setSysPending b).draws = s.draws := rfl
@[simp] theorem State.setSysPending_reg (s : State) (b : Bool) (q : Reg) :
    (s.setSysPending b).reg q = s.reg q := rfl
@[simp] theorem State.setSysPending_readByte (s : State) (b : Bool) (q : Addr) :
    (s.setSysPending b).readByte q = s.readByte q := rfl

/-! ### `State.halt` -/

@[simp] theorem State.halt_x (s : State) (k : HaltKind) (op : Opcode) (a : Addr) :
    (s.halt k op a).x = s.x := rfl
@[simp] theorem State.halt_pc (s : State) (k : HaltKind) (op : Opcode) (a : Addr) :
    (s.halt k op a).pc = s.pc := rfl
@[simp] theorem State.halt_sp (s : State) (k : HaltKind) (op : Opcode) (a : Addr) :
    (s.halt k op a).sp = s.sp := rfl
@[simp] theorem State.halt_flags (s : State) (k : HaltKind) (op : Opcode) (a : Addr) :
    (s.halt k op a).flags = s.flags := rfl
@[simp] theorem State.halt_run (s : State) (k : HaltKind) (op : Opcode) (a : Addr) :
    (s.halt k op a).run = .halted := rfl
@[simp] theorem State.halt_mem (s : State) (k : HaltKind) (op : Opcode) (a : Addr) :
    (s.halt k op a).mem = s.mem := rfl
@[simp] theorem State.halt_diag (s : State) (k : HaltKind) (op : Opcode) (a : Addr) :
    (s.halt k op a).diag = ⟨k, op, a⟩ := rfl
@[simp] theorem State.halt_irqPending (s : State) (k : HaltKind) (op : Opcode) (a : Addr) :
    (s.halt k op a).irqPending = s.irqPending := rfl
@[simp] theorem State.halt_sysPending (s : State) (k : HaltKind) (op : Opcode) (a : Addr) :
    (s.halt k op a).sysPending = s.sysPending := rfl
@[simp] theorem State.halt_ia (s : State) (k : HaltKind) (op : Opcode) (a : Addr) :
    (s.halt k op a).ia = s.ia := rfl
@[simp] theorem State.halt_cfg (s : State) (k : HaltKind) (op : Opcode) (a : Addr) :
    (s.halt k op a).cfg = s.cfg := rfl
@[simp] theorem State.halt_events (s : State) (k : HaltKind) (op : Opcode) (a : Addr) :
    (s.halt k op a).events = s.events := rfl
@[simp] theorem State.halt_draws (s : State) (k : HaltKind) (op : Opcode) (a : Addr) :
    (s.halt k op a).draws = s.draws := rfl
@[simp] theorem State.halt_reg (s : State) (k : HaltKind) (op : Opcode) (a : Addr) (q : Reg) :
    (s.halt k op a).reg q = s.reg q := rfl
@[simp] theorem State.halt_readByte (s : State) (k : HaltKind) (op : Opcode) (a : Addr) (q : Addr) :
    (s.halt k op a).readByte q = s.readByte q := rfl

/-! ### `State.ioIn` -/

@[simp] theorem State.ioIn_x (s : State) (p : Byte) :
    (s.ioIn p).x = s.x := rfl
@[simp] theorem State.ioIn_pc (s : State) (p : Byte) :
    (s.ioIn p).pc = s.pc := rfl
@[simp] theorem State.ioIn_sp (s : State) (p : Byte) :
    (s.ioIn p).sp = s.sp := rfl
@[simp] theorem State.ioIn_flags (s : State) (p : Byte) :
    (s.ioIn p).flags = s.flags := rfl
@[simp] theorem State.ioIn_run (s : State) (p : Byte) :
    (s.ioIn p).run = s.run := rfl
@[simp] theorem State.ioIn_mem (s : State) (p : Byte) :
    (s.ioIn p).mem = s.mem := rfl
@[simp] theorem State.ioIn_diag (s : State) (p : Byte) :
    (s.ioIn p).diag = s.diag := rfl
@[simp] theorem State.ioIn_irqPending (s : State) (p : Byte) :
    (s.ioIn p).irqPending = s.irqPending := rfl
@[simp] theorem State.ioIn_sysPending (s : State) (p : Byte) :
    (s.ioIn p).sysPending = s.sysPending := rfl
@[simp] theorem State.ioIn_ia (s : State) (p : Byte) :
    (s.ioIn p).ia = s.ia := rfl
@[simp] theorem State.ioIn_cfg (s : State) (p : Byte) :
    (s.ioIn p).cfg = s.cfg := rfl
@[simp] theorem State.ioIn_events (s : State) (p : Byte) :
    (s.ioIn p).events = s.events ++ [.input p (s.ioInValue p)] := rfl
@[simp] theorem State.ioIn_draws (s : State) (p : Byte) :
    (s.ioIn p).draws = s.draws + 1 := rfl
@[simp] theorem State.ioIn_reg (s : State) (p : Byte) (q : Reg) :
    (s.ioIn p).reg q = s.reg q := rfl
@[simp] theorem State.ioIn_readByte (s : State) (p : Byte) (q : Addr) :
    (s.ioIn p).readByte q = s.readByte q := rfl

/-! ### `State.ioOut` -/

@[simp] theorem State.ioOut_x (s : State) (p v : Byte) :
    (s.ioOut p v).x = s.x := rfl
@[simp] theorem State.ioOut_pc (s : State) (p v : Byte) :
    (s.ioOut p v).pc = s.pc := rfl
@[simp] theorem State.ioOut_sp (s : State) (p v : Byte) :
    (s.ioOut p v).sp = s.sp := rfl
@[simp] theorem State.ioOut_flags (s : State) (p v : Byte) :
    (s.ioOut p v).flags = s.flags := rfl
@[simp] theorem State.ioOut_run (s : State) (p v : Byte) :
    (s.ioOut p v).run = s.run := rfl
@[simp] theorem State.ioOut_mem (s : State) (p v : Byte) :
    (s.ioOut p v).mem = s.mem := rfl
@[simp] theorem State.ioOut_diag (s : State) (p v : Byte) :
    (s.ioOut p v).diag = s.diag := rfl
@[simp] theorem State.ioOut_irqPending (s : State) (p v : Byte) :
    (s.ioOut p v).irqPending = s.irqPending := rfl
@[simp] theorem State.ioOut_sysPending (s : State) (p v : Byte) :
    (s.ioOut p v).sysPending = s.sysPending := rfl
@[simp] theorem State.ioOut_ia (s : State) (p v : Byte) :
    (s.ioOut p v).ia = s.ia := rfl
@[simp] theorem State.ioOut_cfg (s : State) (p v : Byte) :
    (s.ioOut p v).cfg = s.cfg := rfl
@[simp] theorem State.ioOut_events (s : State) (p v : Byte) :
    (s.ioOut p v).events = s.events ++ [.output p v] := rfl
@[simp] theorem State.ioOut_draws (s : State) (p v : Byte) :
    (s.ioOut p v).draws = s.draws := rfl
@[simp] theorem State.ioOut_reg (s : State) (p v : Byte) (q : Reg) :
    (s.ioOut p v).reg q = s.reg q := rfl
@[simp] theorem State.ioOut_readByte (s : State) (p v : Byte) (q : Addr) :
    (s.ioOut p v).readByte q = s.readByte q := rfl

/-! ### `State.latchFetch` -/

@[simp] theorem State.latchFetch_x (s : State) :
    (s.latchFetch).x = s.x := rfl
@[simp] theorem State.latchFetch_pc (s : State) :
    (s.latchFetch).pc = advancePc s.cfg.pcWrap s.pc := rfl
@[simp] theorem State.latchFetch_sp (s : State) :
    (s.latchFetch).sp = s.sp := rfl
@[simp] theorem State.latchFetch_flags (s : State) :
    (s.latchFetch).flags = s.flags := rfl
@[simp] theorem State.latchFetch_run (s : State) :
    (s.latchFetch).run = s.run := rfl
@[simp] theorem State.latchFetch_mem (s : State) :
    (s.latchFetch).mem = s.mem := rfl
@[simp] theorem State.latchFetch_diag (s : State) :
    (s.latchFetch).diag = s.diag := rfl
@[simp] theorem State.latchFetch_irqPending (s : State) :
    (s.latchFetch).irqPending = s.irqPending := rfl
@[simp] theorem State.latchFetch_sysPending (s : State) :
    (s.latchFetch).sysPending = s.sysPending := rfl
@[simp] theorem State.latchFetch_ia (s : State) :
    (s.latchFetch).ia = s.pc := rfl
@[simp] theorem State.latchFetch_cfg (s : State) :
    (s.latchFetch).cfg = s.cfg := rfl
@[simp] theorem State.latchFetch_events (s : State) :
    (s.latchFetch).events = s.events := rfl
@[simp] theorem State.latchFetch_draws (s : State) :
    (s.latchFetch).draws = s.draws := rfl
@[simp] theorem State.latchFetch_reg (s : State) (q : Reg) :
    (s.latchFetch).reg q = s.reg q := rfl
@[simp] theorem State.latchFetch_readByte (s : State) (q : Addr) :
    (s.latchFetch).readByte q = s.readByte q := rfl

/-! ### Registers -/

/-- A register read after a register write. -/
theorem Regs.get_set (x : Regs) (r q : Reg) (v : Byte) :
    (x.set r v).get q = if q = r then v else x.get q := by
  cases r <;> cases q <;> rfl

@[simp] theorem State.setReg_reg_self (s : State) (r : Reg) (v : Byte) :
    (s.setReg r v).reg r = v := by
  cases r <;> rfl

theorem State.setReg_reg_of_ne (s : State) {r q : Reg} (v : Byte) (h : q ≠ r) :
    (s.setReg r v).reg q = s.reg q := by
  simp [State.reg, Regs.get_set, h]

end Sys2Proof.Machine
end

