-- ==== Sys2Proof/Laws/Memory.lean ====
section
/-! SUPPORT. Memory: every operation keeps the canonical form, a read after a write, and memories in
canonical form that read alike are equal. -/

namespace Sys2Proof.Machine

/-! ### The canonical form -/

theorem Memory.wfFrom_cons {lo b : Nat} {v : Byte} {rest : Memory} :
    Memory.wfFrom lo ((b, v) :: rest) = true ↔
      lo ≤ b ∧ b < 4096 ∧ v ≠ Config.unlistedByte ∧ Memory.wfFrom (b + 1) rest = true := by
  simp [Memory.wfFrom, and_assoc]

/-- A memory canonical from one address on is canonical from any lower one on. -/
theorem Memory.wfFrom_mono {m : Memory} {lo lo' : Nat} (h : lo' ≤ lo)
    (hm : Memory.wfFrom lo m = true) : Memory.wfFrom lo' m = true := by
  cases m with
  | nil => rfl
  | cons c rest =>
    obtain ⟨b, v⟩ := c
    rw [Memory.wfFrom_cons] at hm ⊢
    exact ⟨by omega, hm.2⟩

/-- Below its first address a canonical memory lists nothing. -/
theorem Memory.read_of_lt {m : Memory} {lo a : Nat} (hm : Memory.wfFrom lo m = true) (h : a < lo) :
    m.read a = Config.unlistedByte := by
  induction m generalizing lo with
  | nil => rfl
  | cons c rest ih =>
    obtain ⟨b, v⟩ := c
    rw [Memory.wfFrom_cons] at hm
    have hb : b ≠ a := by omega
    simpa [Memory.read, hb] using ih hm.2.2.2 (by omega)

/-- A write keeps the canonical form. -/
theorem Memory.write_wfFrom {m : Memory} {lo a : Nat} (v : Byte) (hm : Memory.wfFrom lo m = true)
    (hlo : lo ≤ a) (ha : a < 4096) : Memory.wfFrom lo (m.write a v) = true := by
  induction m generalizing lo with
  | nil =>
    unfold Memory.write
    split
    · rfl
    · rename_i hv
      exact Memory.wfFrom_cons.2 ⟨hlo, ha, hv, rfl⟩
  | cons c rest ih =>
    obtain ⟨b, w⟩ := c
    have hc := Memory.wfFrom_cons.1 hm
    unfold Memory.write
    split
    · rename_i hab
      split
      · exact hm
      · rename_i hv
        exact Memory.wfFrom_cons.2 ⟨hlo, ha, hv, Memory.wfFrom_cons.2 ⟨hab, hc.2⟩⟩
    · split
      · rename_i hab
        subst hab
        split
        · exact Memory.wfFrom_mono (by omega) hc.2.2.2
        · rename_i hv
          exact Memory.wfFrom_cons.2 ⟨hlo, ha, hv, hc.2.2.2⟩
      · exact Memory.wfFrom_cons.2 ⟨hc.1, hc.2.1, hc.2.2.1, ih hc.2.2.2 (by omega)⟩

theorem Memory.write_wf {m : Memory} {a : Nat} (v : Byte) (hm : m.wf = true) (ha : a < 4096) :
    (m.write a v).wf = true :=
  Memory.write_wfFrom v hm (Nat.zero_le a) ha

/-- Placing bytes keeps the canonical form, as long as they fit below 4096. -/
theorem Memory.place_wf {bs : List Byte} {a : Nat} {m : Memory} (hm : m.wf = true)
    (h : a + bs.length ≤ 4096) : (Memory.place a bs m).wf = true := by
  induction bs generalizing a m with
  | nil => exact hm
  | cons b bs ih =>
    simp only [List.length_cons] at h
    exact ih (Memory.write_wf b hm (by omega)) (by omega)

/-! ### Reading and writing -/

/-- A write leaves every other address alone. -/
theorem Memory.read_write_of_ne {m : Memory} {a b : Nat} (v : Byte) (h : b ≠ a) :
    (m.write a v).read b = m.read b := by
  induction m with
  | nil =>
    unfold Memory.write
    split <;> simp [Memory.read, Ne.symm h]
  | cons c rest ih =>
    obtain ⟨c, w⟩ := c
    unfold Memory.write
    split
    · split <;> simp [Memory.read, Ne.symm h]
    · split
      · rename_i hac
        subst hac
        split <;> simp [Memory.read, Ne.symm h]
      · simp only [Memory.read, ih]

/-- A read after a write to the same address of a canonical memory gives the value written. -/
theorem Memory.read_write_self {m : Memory} {lo a : Nat} (v : Byte)
    (hm : Memory.wfFrom lo m = true) : (m.write a v).read a = v := by
  induction m generalizing lo with
  | nil =>
    unfold Memory.write
    split
    · rename_i hv
      simp [Memory.read, hv]
    · simp [Memory.read]
  | cons c rest ih =>
    obtain ⟨b, w⟩ := c
    have hc := Memory.wfFrom_cons.1 hm
    unfold Memory.write
    split
    · rename_i hab
      split
      · rename_i hv
        rw [hv]
        exact Memory.read_of_lt (Memory.wfFrom_cons.2 ⟨le_refl b, hc.2⟩) hab
      · simp [Memory.read]
    · split
      · rename_i hab
        split
        · rename_i hv
          rw [hv, hab]
          exact Memory.read_of_lt hc.2.2.2 (by omega)
        · simp [Memory.read]
      · rename_i hab
        have hba : b ≠ a := by omega
        simpa [Memory.read, hba] using ih hc.2.2.2

/-- Where placed bytes lie, and that no other address changes. -/
theorem Memory.read_place {bs : List Byte} {a : Nat} {m : Memory} (hm : m.wf = true)
    (h : a + bs.length ≤ 4096) (b : Nat) :
    (Memory.place a bs m).read b =
      if a ≤ b ∧ b < a + bs.length then bs.getD (b - a) Config.unlistedByte else m.read b := by
  induction bs generalizing a m with
  | nil =>
    rw [Memory.place, if_neg (by simp)]
  | cons c cs ih =>
    simp only [List.length_cons] at h ⊢
    rw [Memory.place, ih (Memory.write_wf c hm (by omega)) (by omega)]
    by_cases hba : b = a
    · subst hba
      simp [Memory.read_write_self c hm]
    · rw [Memory.read_write_of_ne c hba]
      by_cases hin : a + 1 ≤ b ∧ b < a + 1 + cs.length
      · have hsub : b - a = (b - (a + 1)) + 1 := by omega
        have hin' : a ≤ b ∧ b < a + (cs.length + 1) := by omega
        simp [hin, hin', hsub]
      · have hin' : ¬(a ≤ b ∧ b < a + (cs.length + 1)) := by omega
        rw [if_neg hin, if_neg hin']

/-! ### Bytes of the state -/

theorem State.writeByte_wf {s : State} (a : Addr) (v : Byte) (h : s.mem.wf = true) :
    (s.writeByte a v).mem.wf = true :=
  Memory.write_wf v h a.isLt

theorem State.readByte_writeByte_self {s : State} (a : Addr) (v : Byte) (h : s.mem.wf = true) :
    (s.writeByte a v).readByte a = v :=
  Memory.read_write_self v h

theorem State.readByte_writeByte_of_ne {s : State} {a b : Addr} (v : Byte) (h : b ≠ a) :
    (s.writeByte a v).readByte b = s.readByte b :=
  Memory.read_write_of_ne v (fun hn => h (BitVec.eq_of_toNat_eq hn))

end Sys2Proof.Machine
end

