-- ==== Sys2Proof/Laws/Ops.lean ====
section
/-! SUPPORT. For each shared operation one lemma that says once what it does: the stack, the return
address, halting, trap entry, the fetch, the sampling of requests, one step, the load. -/

namespace Sys2Proof.Machine

/-! ### What stays the same -/

theorem SameSystem.refl (s : State) : SameSystem s s := ⟨rfl, rfl, rfl, rfl, rfl, rfl⟩

theorem SamePorts.refl (s : State) : SamePorts s s := ⟨rfl, rfl⟩

theorem SameRegsExcept.refl (l : List Reg) (s : State) : SameRegsExcept l s s := fun _ _ => rfl

theorem SameMemoryExcept.refl (l : List Addr) (s : State) : SameMemoryExcept l s s := fun _ _ => rfl

/-- A register write changes that register alone. -/
theorem State.setReg_onlyWrites (s : State) (r : Reg) (v : Byte) :
    OnlyWrites [r] [] s (s.setReg r v) where
  regs q hq := State.setReg_reg_of_ne s v (by simpa using hq)
  memory _ _ := rfl
  pc := rfl
  sp := rfl
  flags := rfl
  system := ⟨rfl, rfl, rfl, rfl, rfl, rfl⟩
  ports := ⟨rfl, rfl⟩

/-- A byte write changes the byte at its address alone. -/
theorem State.writeByte_onlyWrites (s : State) (a : Addr) (v : Byte) :
    OnlyWrites [] [a] s (s.writeByte a v) where
  regs _ _ := rfl
  memory b hb := State.readByte_writeByte_of_ne v (by simpa using hb)
  pc := rfl
  sp := rfl
  flags := rfl
  system := ⟨rfl, rfl, rfl, rfl, rfl, rfl⟩
  ports := ⟨rfl, rfl⟩

/-- A halt changes `run` and `diag` alone (spec/40_engine.md R115). -/
theorem State.halt_haltedWith (s : State) (k : HaltKind) (op : Opcode) (a : Addr) :
    HaltedWith ⟨k, op, a⟩ s (s.halt k op a) where
  run := rfl
  diag := rfl
  regs _ _ := rfl
  memory _ _ := rfl
  pc := rfl
  sp := rfl
  flags := rfl
  irqPending := rfl
  sysPending := rfl
  ia := rfl
  cfg := rfl
  ports := ⟨rfl, rfl⟩

/-! ### The stack -/

/-- Two different values of `sp` address two different slots. -/
theorem stackAddr_injective {p q : Byte} (h : stackAddr p = stackAddr q) : p = q := by
  have hn := congrArg BitVec.toNat h
  simp only [stackAddr, BitVec.toNat_add, BitVec.toNat_setWidth, BitVec.toNat_ofNat] at hn
  apply BitVec.eq_of_toNat_eq
  omega

theorem succ_slot_ne (p : Byte) : p + 1#8 ≠ p := by
  intro h
  have hn := congrArg BitVec.toNat h
  simp only [BitVec.toNat_add, BitVec.toNat_ofNat] at hn
  omega

/-- Every slot lies in the stack region 0xF00..0xFFF (spec/10_state.md R31). -/
theorem stackAddr_toNat (p : Byte) : (stackAddr p).toNat = 0xF00 + p.toNat := by
  simp only [stackAddr, BitVec.toNat_add, BitVec.toNat_setWidth, BitVec.toNat_ofNat]
  omega

@[simp] theorem slotAddr_eq (s : State) (k : Byte) : slotAddr s k = stackAddr (s.sp + k) := rfl

@[simp] theorem State.push8_sp (s : State) (v : Byte) : (s.push8 v).sp = s.sp + 1#8 := rfl
@[simp] theorem State.push8_pc (s : State) (v : Byte) : (s.push8 v).pc = s.pc := rfl
@[simp] theorem State.push8_flags (s : State) (v : Byte) : (s.push8 v).flags = s.flags := rfl
@[simp] theorem State.push8_cfg (s : State) (v : Byte) : (s.push8 v).cfg = s.cfg := rfl
@[simp] theorem State.push8_mem (s : State) (v : Byte) :
    (s.push8 v).mem = s.mem.write (stackAddr s.sp).toNat v := rfl

theorem State.push8_wf {s : State} (v : Byte) (h : s.mem.wf = true) : (s.push8 v).mem.wf = true :=
  State.writeByte_wf _ _ h

/-- The byte pushed lies at the slot `sp` addressed (spec/44_stack_call.md R190). -/
theorem State.push8_readByte_self {s : State} (v : Byte) (h : s.mem.wf = true) :
    (s.push8 v).readByte (stackAddr s.sp) = v :=
  State.readByte_writeByte_self _ _ h

/-- A push leaves every other byte alone. -/
theorem State.push8_readByte_of_ne {s : State} {a : Addr} (v : Byte) (h : a ≠ stackAddr s.sp) :
    (s.push8 v).readByte a = s.readByte a :=
  State.readByte_writeByte_of_ne v h

@[simp] theorem State.popState_sp (s : State) : s.popState.sp = s.sp - 1#8 := rfl
@[simp] theorem State.popState_mem (s : State) : s.popState.mem = s.mem := rfl
@[simp] theorem State.popState_readByte (s : State) (a : Addr) :
    s.popState.readByte a = s.readByte a := rfl

@[simp] theorem State.pushPc_sp (s : State) : s.pushPc.sp = s.sp + 1#8 + 1#8 := rfl
@[simp] theorem State.pushPc_cfg (s : State) : s.pushPc.cfg = s.cfg := rfl
@[simp] theorem State.pushPc_flags (s : State) : s.pushPc.flags = s.flags := rfl

theorem State.pushPc_wf {s : State} (h : s.mem.wf = true) : s.pushPc.mem.wf = true :=
  State.push8_wf _ (State.push8_wf _ h)

theorem sp_add_two (p : Byte) : p + 1#8 + 1#8 = p + 2#8 := by
  rw [BitVec.add_assoc]; rfl

/-- Pushing the pc: low byte at the first slot, high byte at the next (spec/20_memory.md R55). -/
theorem State.pushPc_pcPushed {s : State} (h : s.mem.wf = true) : PcPushed s s.pushPc where
  low := by
    rw [slotAddr_eq, BitVec.add_zero, State.pushPc, State.push8_readByte_of_ne,
      State.push8_readByte_self _ h]
    intro hne
    exact succ_slot_ne s.sp (stackAddr_injective hne).symm
  high := State.push8_readByte_self (s := s.push8 _) _ (State.push8_wf _ h)
  sp := sp_add_two s.sp

theorem State.pushPc_memory (s : State) :
    SameMemoryExcept [slotAddr s 0#8, slotAddr s 1#8] s s.pushPc := by
  intro a ha
  simp only [slotAddr_eq, BitVec.add_zero, List.mem_cons, List.not_mem_nil, or_false, not_or] at ha
  rw [State.pushPc, State.push8_readByte_of_ne _ ha.2, State.push8_readByte_of_ne _ ha.1]

/-! ### Addresses from two bytes -/

/-- `{hi, lo} mod 4096` as a number (spec/44_stack_call.md R195). -/
theorem addrOfBytes_toNat (hi lo : Byte) :
    (addrOfBytes hi lo).toNat = (hi.toNat * 256 + lo.toNat) % 4096 := by
  have hlo := lo.isLt
  simp only [addrOfBytes, BitVec.toNat_setWidth, BitVec.toNat_append]
  rw [Nat.shiftLeft_eq, Nat.mul_comm hi.toNat, ← Nat.two_pow_add_eq_or_of_lt hlo, Nat.mul_comm]

/-- The two bytes that a push of `pc` stores give `pc` back. -/
theorem addrOfBytes_pc (pc : Addr) :
    addrOfBytes ((pc.extractLsb' 8 4).setWidth 8) (pc.extractLsb' 0 8) = pc := by
  apply BitVec.eq_of_toNat_eq
  have hpc := pc.isLt
  simp only [addrOfBytes_toNat, BitVec.toNat_setWidth, BitVec.extractLsb'_toNat,
    Nat.shiftRight_eq_div_pow]
  omega

/-- The return through the stack reads the two bytes below `sp` (spec/44_stack_call.md R195). -/
theorem State.popPc_spec (s : State) :
    s.popPc = { s with
      pc := addrOfBytes (s.readByte (stackAddr (s.sp - 1#8)))
        (s.readByte (stackAddr (s.sp - 1#8 - 1#8)))
      sp := s.sp - 1#8 - 1#8 } := rfl

/-! ### Trap entry -/

/-- Everything a trap entry does (spec/60_exceptions.md R228, R229). -/
theorem State.trapEntry_trapEntered {s : State} (v : Addr) (h : s.mem.wf = true) :
    TrapEntered v s (s.trapEntry v) where
  pushed := ⟨(State.pushPc_pcPushed h).low, (State.pushPc_pcPushed h).high, sp_add_two s.sp⟩
  memory := State.pushPc_memory s
  littlePc hl := by
    have : (s.trapEntry v).pc = addrOfBytes (s.pushPc.readByte (v + 1#12)) (s.pushPc.readByte v) := by
      simp [State.trapEntry, State.vecRead, hl]
    rw [this, addrOfBytes_toNat]
    rfl
  bigPc hb := by
    have : (s.trapEntry v).pc = addrOfBytes (s.pushPc.readByte v) (s.pushPc.readByte (v + 1#12)) := by
      simp [State.trapEntry, State.vecRead, hb]
    rw [this, addrOfBytes_toNat]
    rfl
  zeroFlag := by simp only [State.trapEntry, State.setFlags_flags, entryFlags]; split <;> rfl
  carryFlag := by simp only [State.trapEntry, State.setFlags_flags, entryFlags]; split <;> rfl
  negativeFlag := by simp only [State.trapEntry, State.setFlags_flags, entryFlags]; split <;> rfl
  enableFlag := by
    simp only [State.trapEntry, State.setFlags_flags, entryFlags]
    split <;> rename_i hc <;> simp [hc]
  regs _ _ := rfl
  run := rfl
  diag := rfl
  ia := rfl
  cfg := rfl
  ports := ⟨rfl, rfl⟩

@[simp] theorem State.trapEntry_irqPending (s : State) (v : Addr) :
    (s.trapEntry v).irqPending = s.irqPending := rfl
@[simp] theorem State.trapEntry_sysPending (s : State) (v : Addr) :
    (s.trapEntry v).sysPending = s.sysPending := rfl

theorem State.trapEntry_wf {s : State} (v : Addr) (h : s.mem.wf = true) :
    (s.trapEntry v).mem.wf = true :=
  State.pushPc_wf h

/-! ### Flags -/

/-- UpdateFlags sets at most one of Z, C and N (spec/42_alu.md R150). -/
theorem updateFlags_exclusive (clearsI : Bool) (n : Int) (f : Flags) :
    FlagsExclusive (updateFlags clearsI n f) := by
  simp only [FlagsExclusive, updateFlags, decide_eq_true_eq]
  omega

theorem State.updateFlags_flags (s : State) (n : Int) :
    (s.updateFlags n).flags =
      ⟨decide (n = 0), decide (n > 0xFF), decide (n < 0), s.flags.i && !s.cfg.updateFlagsClearsI⟩ :=
  rfl

/-- The truncated byte of an exact result, as a number (spec/00_scope.md R10). -/
theorem truncByte_toNat (n : Int) : ((truncByte n).toNat : Int) = n % 256 := by
  simp only [truncByte, BitVec.toNat_ofInt]
  omega

/-- A jump changes `pc` at most. -/
theorem State.jumpIf_eq (s : State) (cond : Bool) (a : Addr) :
    s.jumpIf cond a = { s with pc := if cond then a else s.pc } := by
  cases cond <;> rfl

/-! ### Sampling and the step -/

/-- Sampling while no trap is taken changes the interrupt latch alone (spec/60_exceptions.md R225). -/
theorem State.sampleMasked_eq (s : State) :
    s.sampleMasked = { s with
      irqPending := s.irqPending && (s.flags.i || decide (s.cfg.irqMasked = .hold)) } := by
  cases s with
  | mk x pc sp flags run mem diag irq sys ia cfg events draws =>
    cases hm : cfg.irqMasked <;> cases irq <;> cases hi : flags.i <;>
      simp [State.sampleMasked, State.setIrqPending, hm, hi]

/-- A trap is taken exactly when one is due. -/
theorem trapDue_iff (s : State) :
    TrapDue s ↔ s.takesSyscall = true ∨ s.takesInterrupt = true := by
  simp only [TrapDue, State.takesSyscall, State.takesInterrupt, Bool.and_eq_true, Bool.or_eq_true,
    Bool.not_eq_true']
  cases s.cfg.syscallMaskedByI <;> simp

/-- The state after the fetch of a step at which no interrupt is taken. -/
theorem State.latchFetch_sampleMasked {s : State} (hi : s.takesInterrupt = false) :
    s.sampleMasked.latchFetch = { s with
      ia := s.pc
      pc := advancePc s.cfg.pcWrap s.pc
      irqPending := s.irqPending && decide (s.cfg.irqMasked = .hold) } := by
  have hirq : (s.irqPending && (s.flags.i || decide (s.cfg.irqMasked = .hold))) =
      (s.irqPending && decide (s.cfg.irqMasked = .hold)) := by
    rw [State.takesInterrupt] at hi
    rw [Bool.and_or_distrib_left, hi, Bool.false_or]
  rw [State.sampleMasked_eq, hirq]
  rfl

/-- The word that a fetch reads does not depend on the sampling. -/
theorem State.sampleMasked_fetchBytes (s : State) : s.sampleMasked.fetchBytes = s.fetchBytes := by
  rw [State.sampleMasked_eq]; rfl

/-- A step at which no trap is due runs the word at `pc`. -/
theorem step_of_not_trapDue {s : State} (hr : s.run = .running) (ht : ¬TrapDue s) :
    step s = runWord (s.readByte s.pc) (s.readByte (s.pc + 1#12)) (s.readByte (s.pc + 2#12))
      s.sampleMasked.latchFetch := by
  rw [trapDue_iff, not_or, Bool.not_eq_true, Bool.not_eq_true] at ht
  simp only [step, State.engineStep, State.stepRunning, State.runInstruction,
    State.sampleMasked_fetchBytes, hr, ht.1, ht.2]
  rfl

/-- A step at which a syscall request is taken enters its trap. -/
theorem step_of_takesSyscall {s : State} (hr : s.run = .running) (hs : s.takesSyscall = true) :
    step s = .next ((s.setSysPending false).trapEntry s.cfg.syscallVector) := by
  simp only [step, State.engineStep, State.stepRunning, hr, hs]
  rfl

/-- A step at which an interrupt request and no syscall request is taken enters its trap. -/
theorem step_of_takesInterrupt {s : State} (hr : s.run = .running) (hs : s.takesSyscall = false)
    (hi : s.takesInterrupt = true) :
    step s = .next ((s.setIrqPending false).trapEntry s.cfg.intVector) := by
  simp only [step, State.engineStep, State.stepRunning, hr, hs, hi]
  rfl

/-- Everything a step that answers a next state can have done: it was Running, and it entered the
syscall trap, or the interrupt trap, or ran one instruction, or ran the Error handler. -/
theorem step_cases {s t : State} (h : step s = .next t) :
    s.run = .running ∧
      ((s.takesSyscall = true ∧ t = (s.setSysPending false).trapEntry s.cfg.syscallVector) ∨
        (s.takesSyscall = false ∧ s.takesInterrupt = true ∧
          t = (s.setIrqPending false).trapEntry s.cfg.intVector) ∨
        (s.takesSyscall = false ∧ s.takesInterrupt = false ∧
          ((∃ i, wordAt s = .instr i ∧ exec i s.sampleMasked.latchFetch = .next t) ∨
            (∃ op, wordAt s = .illegalOpcode op ∧
              t = s.sampleMasked.latchFetch.halt .illegalOpcode op s.pc)))) := by
  unfold step State.engineStep at h
  split at h
  · rename_i hr
    refine ⟨hr, ?_⟩
    unfold State.stepRunning at h
    split at h
    · rename_i hs
      exact .inl ⟨hs, by simpa using h.symm⟩
    · rename_i hs
      split at h
      · rename_i hi
        exact .inr (.inl ⟨by simpa using hs, hi, by simpa using h.symm⟩)
      · rename_i hi
        refine .inr (.inr ⟨by simpa using hs, by simpa using hi, ?_⟩)
        rw [State.runInstruction, State.sampleMasked_fetchBytes, runWord] at h
        split at h
        · rename_i i hd
          exact .inl ⟨i, hd, h⟩
        · rename_i op hd
          refine .inr ⟨op, hd, ?_⟩
          have hia : s.sampleMasked.latchFetch.ia = s.pc := by rw [State.sampleMasked_eq]; rfl
          rw [execIllegalOpcode, hia] at h
          simpa using h.symm
  · cases h

end Sys2Proof.Machine
end

