-- ==== Sys2Proof/Laws/PerInstr.lean ====
section
/-! SUPPORT. The family EncodeOpcode: the opcode that `encode` writes for an instruction is the one of
its row of the descriptor table (spec/30_encoding.md R73, R76), one lemma per constructor. -/

namespace Sys2Proof.Laws.EncodeOpcode

/-- The op field of an encoded word selects the descriptor with the instruction's own mnemonic. -/
def Statement (i : Instr) : Prop :=
  (descriptorOf (decodeFields (encode i).1 (encode i).2.1 (encode i).2.2).op).map
    Descriptor.mnemonic = some i.mnemonic

/-- Packing keeps the opcode, whatever the mode bit. -/
theorem op_of_encodeFields (op : Opcode) (m : Bool) (d s : BitVec 2) (v : Addr) :
    (decodeFields (encodeFields op m d s v).1 (encodeFields op m d s v).2.1
      (encodeFields op m d s v).2.2).op = op := by
  apply BitVec.eq_of_toNat_eq
  have hop := op.isLt
  simp only [decodeFields, encodeFields, BitVec.extractLsb'_toNat, BitVec.toNat_append,
    Nat.shiftLeft_eq, Nat.mul_comm (BitVec.ofBool m).toNat, ← Nat.two_pow_add_eq_or_of_lt hop,
    Nat.shiftRight_zero]
  omega

theorem hlt : Statement .hlt := by
  rw [Statement, encode, op_of_encodeFields]; rfl
theorem ldr (d : Reg) (src : Operand) : Statement (.ldr d src) := by
  rw [Statement, encode, op_of_encodeFields]; rfl
theorem ldm (d : Reg) (src : Operand) : Statement (.ldm d src) := by
  rw [Statement, encode, op_of_encodeFields]; rfl
theorem sti (d : Reg) (src : Operand) : Statement (.sti d src) := by
  rw [Statement, encode, op_of_encodeFields]; rfl
theorem str (dst : Operand) (src : Reg) : Statement (.str dst src) := by
  rw [Statement, encode, op_of_encodeFields]; rfl
theorem add (d src : Reg) : Statement (.add d src) := by
  rw [Statement, encode, op_of_encodeFields]; rfl
theorem sub (d src : Reg) : Statement (.sub d src) := by
  rw [Statement, encode, op_of_encodeFields]; rfl
theorem cmp (d src : Reg) : Statement (.cmp d src) := by
  rw [Statement, encode, op_of_encodeFields]; rfl
theorem jz (target : Addr) : Statement (.jz target) := by
  rw [Statement, encode, op_of_encodeFields]; rfl
theorem jnz (target : Addr) : Statement (.jnz target) := by
  rw [Statement, encode, op_of_encodeFields]; rfl
theorem jn (target : Addr) : Statement (.jn target) := by
  rw [Statement, encode, op_of_encodeFields]; rfl
theorem jnn (target : Addr) : Statement (.jnn target) := by
  rw [Statement, encode, op_of_encodeFields]; rfl
theorem jc (target : Addr) : Statement (.jc target) := by
  rw [Statement, encode, op_of_encodeFields]; rfl
theorem jnc (target : Addr) : Statement (.jnc target) := by
  rw [Statement, encode, op_of_encodeFields]; rfl
theorem jbe (target : Addr) : Statement (.jbe target) := by
  rw [Statement, encode, op_of_encodeFields]; rfl
theorem ja (target : Addr) : Statement (.ja target) := by
  rw [Statement, encode, op_of_encodeFields]; rfl
theorem jmp (target : Addr) : Statement (.jmp target) := by
  rw [Statement, encode, op_of_encodeFields]; rfl
theorem push (src : Operand) : Statement (.push src) := by
  rw [Statement, encode, op_of_encodeFields]; rfl
theorem pop (d : Reg) : Statement (.pop d) := by
  rw [Statement, encode, op_of_encodeFields]; rfl
theorem call (target : Addr) : Statement (.call target) := by
  rw [Statement, encode, op_of_encodeFields]; rfl
theorem ret : Statement .ret := by
  rw [Statement, encode, op_of_encodeFields]; rfl
theorem inPort (d : Reg) (port : Operand) : Statement (.inPort d port) := by
  rw [Statement, encode, op_of_encodeFields]; rfl
theorem outPort (port : Operand) (src : Reg) : Statement (.outPort port src) := by
  rw [Statement, encode, op_of_encodeFields]; rfl

end Sys2Proof.Laws.EncodeOpcode
end

