-- ==== Sys2Proof/Tests/Slice0.lean ====
section
/-! SUPPORT. The model's own tests. Expected results come from spec/: the examples of the rules and the
vectors of 95_test_vectors.md; words are written out from the encodings of 30_encoding.md R71, R76. Then
one witness for the hypotheses of each statement. -/

namespace Sys2Proof.Tests

open Sys2Proof.Machine

/-! ### Helpers -/

/-- The next state of an outcome. -/
def nextOf (o : Host.Outcome State Fault Refusal) : Option State :=
  match o with
  | .next t => some t
  | _ => none

/-- The parameters at their defaults, with the example vector addresses of spec/95_test_vectors.md. -/
def cfg : Config.Params :=
  { Config.defaults with intVector := 0xEFE#12, syscallVector := 0xEFC#12 }

/-- Reset with these parameters and registers. -/
def withRegs (a b c d : Byte) : State :=
  { State.reset with cfg := cfg, x := ⟨a, b, c, d⟩ }

/-- `s` with `pc` at `a` and the word `b0 b1 b2` there. -/
def withWord (a : Addr) (b0 b1 b2 : Byte) (s : State) : State :=
  ((((s.setPc a).writeByte a b0).writeByte (a + 1#12) b1).writeByte (a + 2#12) b2)

/-- One step of the word `b0 b1 b2` placed at 0x010. -/
def run (b0 b1 b2 : Byte) (s : State) : Option State :=
  nextOf (step (withWord 0x010#12 b0 b1 b2 s))

/-- The flags as the vectors write them (spec/10_state.md R30). -/
def withFlags (z c n i : Bool) (s : State) : State := s.setFlags ⟨z, c, n, i⟩

/-! ### WellFormed: an ill-formed term for each check -/

theorem test_illFormed_ldr : (Instr.ldr .r0 (.imm 0x100#12)).wellFormed = false := by decide
theorem test_illFormed_sti : (Instr.sti .r0 (.imm 0x100#12)).wellFormed = false := by decide
theorem test_illFormed_push : (Instr.push (.imm 0xFFF#12)).wellFormed = false := by decide
theorem test_illFormed_in : (Instr.inPort .r0 (.imm 0x100#12)).wellFormed = false := by decide
theorem test_illFormed_out : (Instr.outPort (.imm 0x100#12) .r0).wellFormed = false := by decide
theorem test_wellFormed_boundary : (Instr.ldr .r0 (.imm 0x0FF#12)).wellFormed = true := by decide

/-! ### Decode: a word of the spec for every constructor -/

/-- R116 example. -/
theorem test_decode_hlt : decode 0x00#8 0x00#8 0x00#8 = .instr .hlt := by decide
/-- vector DE2. -/
theorem test_decode_hlt_mode_bit_ignored : decode 0x80#8 0x00#8 0x00#8 = .instr .hlt := by decide
/-- R131 example, vector DT1. -/
theorem test_decode_ldr_immediate : decode 0x01#8 0x00#8 0x05#8 = .instr (.ldr .r0 (.imm 0x005#12)) := by decide
/-- R131 example, vector DT2. -/
theorem test_decode_ldr_register : decode 0x81#8 0x60#8 0x00#8 = .instr (.ldr .r1 (.reg .r2)) := by decide
/-- vector DE6. -/
theorem test_decode_ldr_ignored_bits : decode 0x01#8 0x3F#8 0x05#8 = .instr (.ldr .r0 (.imm 0x005#12)) := by decide
/-- vector DE7. -/
theorem test_decode_ldm_direct : decode 0x02#8 0x2F#8 0xFF#8 = .instr (.ldm .r0 (.imm 0xFFF#12)) := by decide
/-- R132 example, vector DT6. -/
theorem test_decode_ldm_indirect : decode 0x82#8 0x10#8 0x00#8 = .instr (.ldm .r0 (.reg .r1)) := by decide
/-- R133 example. -/
theorem test_decode_sti : decode 0x03#8 0x40#8 0xF0#8 = .instr (.sti .r1 (.imm 0x0F0#12)) := by decide
/-- vector AS11. -/
theorem test_decode_sti_register : decode 0x83#8 0x60#8 0x00#8 = .instr (.sti .r1 (.reg .r2)) := by decide
/-- R134 example. -/
theorem test_decode_str_direct : decode 0x04#8 0x21#8 0x00#8 = .instr (.str (.imm 0x100#12) .r2) := by decide
/-- R134 example. -/
theorem test_decode_str_indirect : decode 0x84#8 0x40#8 0x00#8 = .instr (.str (.reg .r1) .r0) := by decide
/-- vector AL4. -/
theorem test_decode_add : decode 0x85#8 0x10#8 0x00#8 = .instr (.add .r0 .r1) := by decide
/-- program P1. -/
theorem test_decode_sub : decode 0x06#8 0x60#8 0x00#8 = .instr (.sub .r1 .r2) := by decide
/-- R154 example. -/
theorem test_decode_cmp : decode 0x07#8 0x10#8 0x00#8 = .instr (.cmp .r0 .r1) := by decide
/-- R172 example. -/
theorem test_decode_jz : decode 0x08#8 0x01#8 0x23#8 = .instr (.jz 0x123#12) := by decide
/-- R173 example. -/
theorem test_decode_jnz : decode 0x09#8 0x00#8 0x09#8 = .instr (.jnz 0x009#12) := by decide
/-- R174 example. -/
theorem test_decode_jn : decode 0x0A#8 0x02#8 0x00#8 = .instr (.jn 0x200#12) := by decide
/-- R175 example. -/
theorem test_decode_jnn : decode 0x0B#8 0x00#8 0x40#8 = .instr (.jnn 0x040#12) := by decide
/-- R176 example. -/
theorem test_decode_jc : decode 0x0C#8 0x00#8 0x15#8 = .instr (.jc 0x015#12) := by decide
/-- R177 example. -/
theorem test_decode_jnc : decode 0x0D#8 0x0F#8 0xFF#8 = .instr (.jnc 0xFFF#12) := by decide
/-- R178 example. -/
theorem test_decode_jbe : decode 0x0E#8 0x00#8 0x30#8 = .instr (.jbe 0x030#12) := by decide
/-- R179 example. -/
theorem test_decode_ja : decode 0x0F#8 0x00#8 0x30#8 = .instr (.ja 0x030#12) := by decide
/-- vector JU2. -/
theorem test_decode_jmp : decode 0x90#8 0x00#8 0x30#8 = .instr (.jmp 0x030#12) := by decide
/-- vector AS10. -/
theorem test_decode_push_register : decode 0x91#8 0xC0#8 0x00#8 = .instr (.push (.reg .r3)) := by decide
/-- R192 example. -/
theorem test_decode_push_immediate : decode 0x11#8 0x00#8 0x07#8 = .instr (.push (.imm 0x007#12)) := by decide
/-- R193 example. -/
theorem test_decode_pop : decode 0x12#8 0xC0#8 0x00#8 = .instr (.pop .r3) := by decide
/-- vector ST6. -/
theorem test_decode_call : decode 0x13#8 0x06#8 0x66#8 = .instr (.call 0x666#12) := by decide
/-- R195 example. -/
theorem test_decode_ret : decode 0x14#8 0x00#8 0x00#8 = .instr .ret := by decide
/-- vector IO5. -/
theorem test_decode_in_immediate : decode 0x15#8 0xC0#8 0xFF#8 = .instr (.inPort .r3 (.imm 0x0FF#12)) := by decide
/-- vector IO2. -/
theorem test_decode_in_register : decode 0x95#8 0x50#8 0x00#8 = .instr (.inPort .r1 (.reg .r1)) := by decide
/-- vector DE5. -/
theorem test_decode_out_immediate : decode 0x16#8 0xFF#8 0x41#8 = .instr (.outPort (.imm 0x041#12) .r3) := by decide
/-- vector IO4. -/
theorem test_decode_out_register : decode 0x96#8 0xA0#8 0x00#8 = .instr (.outPort (.reg .r2) .r2) := by decide
/-- Vector DE1: the fields of an undefined word. -/
theorem test_decodeFields : decodeFields 0xE7#8 0xA5#8 0x3C#8 =
    ⟨0x67#7, true, 2#2, 2#2, 0x3C#8, 0x53C#12⟩ := by decide
/-- Vector DE1. -/
theorem test_decode_undefined : decode 0xE7#8 0xA5#8 0x3C#8 = .illegalOpcode 0x67#7 := by decide
/-- Vector DE3: the first undefined opcode, with M = 1. -/
theorem test_decode_firstUndefined : decode 0x97#8 0x00#8 0x00#8 = .illegalOpcode 0x17#7 := by decide
/-- The bit numbering of spec/opcode_table.json: ADD has op 5 in bits 22..16. -/
theorem test_decodeTableWord : decodeTableWord 24 0x051000 = some (.add .r0 .r1) := by decide
theorem test_decodeTableWord_undefined : decodeTableWord 24 0x170000 = none := by decide
/-- Vector AS8. -/
theorem test_encode_str : encode (.str (.imm 0x100#12) .r2) = (0x04#8, 0x21#8, 0x00#8) := by decide
/-- Vector AS10. -/
theorem test_encode_push : encode (.push (.reg .r3)) = (0x91#8, 0xC0#8, 0x00#8) := by decide

/-! ### Fetch and pc -/

/-- Vector FE1: a word across 0xFFF. -/
theorem test_fetch_wraps :
    (nextOf (step (withWord 0xFFE#12 0x01#8 0x00#8 0x42#8 State.reset))).map
      (fun t => (t.x.r0, t.pc, t.ia)) = some (0x42#8, 0x001#12, 0xFFE#12) := by decide
/-- Vector FE3: HLT at 0xFFD. -/
theorem test_fetch_pc_zero :
    (nextOf (step (withWord 0xFFD#12 0x00#8 0x00#8 0x00#8 State.reset))).map
      (fun t => (t.run, t.pc, t.diag)) = some (.halted, 0x000#12, ⟨.hlt, 0x00#7, 0xFFD#12⟩) := by decide
/-- 90_conflicts.md C1: under PC_WRAP_MODULUS = 4095 the advance from 0xFFD gives 1. -/
theorem test_pcWrap_4095 : advancePc .mod4095 0xFFD#12 = 0x001#12 := by decide
/-- Vector DE9. -/
theorem test_undefined_halts :
    (nextOf (step (withWord 0x100#12 0x20#8 0x00#8 0x00#8 State.reset))).map
      (fun t => (t.run, t.pc, t.diag)) =
      some (.halted, 0x103#12, ⟨.illegalOpcode, 0x20#7, 0x100#12⟩) := by decide
/-- Vector DE8: no step in Halted. -/
theorem test_halted : nextOf (step { State.reset with run := .halted }) = none := rfl
/-- The word placed by withFetchWord is what the first step after reset runs. -/
theorem test_withFetchWord :
    (nextOf (step (State.reset.withFetchWord 24 0x01C07E))).map (fun t => (t.x.r3, t.pc)) =
      some (0x7E#8, 0x003#12) := by decide

/-! ### Data transfer -/

/-- Vector DT2. -/
theorem test_ldr : (run 0x81#8 0x60#8 0x00#8 (withRegs 0#8 0#8 0x33#8 0#8)).map State.x =
    some ⟨0#8, 0x33#8, 0x33#8, 0#8⟩ := by decide
/-- Vector DT5: the address is read before the write. -/
theorem test_ldm_self : (run 0x82#8 0x50#8 0x00#8
    ((withRegs 0#8 0x40#8 0#8 0#8).writeByte 0x040#12 0x9C#8)).map State.x =
    some ⟨0#8, 0x9C#8, 0#8, 0#8⟩ := by decide
/-- Vector DT6: register-indirect reaches 0x0FF, not 0xFFF. -/
theorem test_ldm_indirect : (run 0x82#8 0x10#8 0x00#8 (((withRegs 0#8 0xFF#8 0#8 0#8).writeByte
    0x0FF#12 0x01#8).writeByte 0xFFF#12 0x02#8)).map (fun t => t.x.r0) = some 0x01#8 := by decide
/-- Vector DT7. -/
theorem test_sti : (run 0x03#8 0x40#8 0x77#8 (withRegs 0#8 0xFF#8 0#8 0#8)).map
    (fun t => (t.readByte 0x0FF#12, t.run)) = some (0x77#8, .running) := by decide
/-- Vector DT8. -/
theorem test_sti_register : (run 0x83#8 0x40#8 0x77#8 (withRegs 0#8 0xFF#8 0#8 0#8)).map
    (fun t => (t.readByte 0x0FF#12, t.diag, t.pc)) =
    some (0x00#8, ⟨.illegalRuntimeAddressingMode, 0x03#7, 0x010#12⟩, 0x013#12) := by decide
/-- Vector DT9. -/
theorem test_str : (run 0x04#8 0x2F#8 0xFF#8 (withRegs 0#8 0#8 0x5A#8 0#8)).map
    (fun t => t.readByte 0xFFF#12) = some 0x5A#8 := by decide
/-- Vector DT10. -/
theorem test_str_indirect : (run 0x84#8 0x40#8 0x00#8 (withRegs 0x10#8 0x80#8 0#8 0#8)).map
    (fun t => (t.readByte 0x080#12, t.readByte 0x010#12)) = some (0x10#8, 0x84#8) := by decide

/-! ### ALU, from the table of the vectors -/

/-- 0x80 + 0x80: C only, not Z. -/
theorem test_add_carry_not_zero : (run 0x05#8 0x10#8 0x00#8 (withRegs 0x80#8 0x80#8 0#8 0#8)).map
    (fun t => (t.x.r0, t.flags.toByte)) = some (0x00#8, 0x02#8) := by decide
/-- Vector AL1: I is kept. -/
theorem test_add_keeps_enable : (run 0x05#8 0x10#8 0x00#8
    (withFlags false true false true (withRegs 0#8 0#8 0#8 0#8))).map (fun t => t.flags.toByte) =
    some 0x09#8 := by decide
/-- 0x3A - 0xC0: N. -/
theorem test_sub_negative : (run 0x06#8 0x10#8 0x00#8 (withRegs 0x3A#8 0xC0#8 0#8 0#8)).map
    (fun t => (t.x.r0, t.flags.toByte)) = some (0x7A#8, 0x04#8) := by decide
/-- 0x01 - 0xFF: N, the byte 0x02. -/
theorem test_sub_wraps : (run 0x06#8 0x10#8 0x00#8 (withRegs 0x01#8 0xFF#8 0#8 0#8)).map
    (fun t => (t.x.r0, t.flags.toByte)) = some (0x02#8, 0x04#8) := by decide
/-- CMP 77, 77: Z, registers unchanged. -/
theorem test_cmp : (run 0x07#8 0x10#8 0x00#8 (withRegs 0x4D#8 0x4D#8 0#8 0#8)).map
    (fun t => (t.x, t.flags.toByte)) = some (⟨0x4D#8, 0x4D#8, 0#8, 0#8⟩, 0x01#8) := by decide

/-! ### Jumps, from the table of the vectors: target 0x200, the word at 0x010 -/

/-- `pc` after the jump with opcode byte `op` under flags 0, Z, C and N. -/
def jumpRow (op : Byte) : List (Option Addr) :=
  [withFlags false false false false, withFlags true false false false,
    withFlags false true false false, withFlags false false true false].map
    (fun f => (run op 0x02#8 0x00#8 (f State.reset)).map State.pc)

theorem test_jz : jumpRow 0x08#8 =
    [some 0x013#12, some 0x200#12, some 0x013#12, some 0x013#12] := by decide
theorem test_jnz : jumpRow 0x09#8 =
    [some 0x200#12, some 0x013#12, some 0x200#12, some 0x200#12] := by decide
theorem test_jn : jumpRow 0x0A#8 =
    [some 0x013#12, some 0x013#12, some 0x013#12, some 0x200#12] := by decide
theorem test_jnn : jumpRow 0x0B#8 =
    [some 0x200#12, some 0x200#12, some 0x200#12, some 0x013#12] := by decide
theorem test_jc : jumpRow 0x0C#8 =
    [some 0x013#12, some 0x013#12, some 0x200#12, some 0x013#12] := by decide
theorem test_jnc : jumpRow 0x0D#8 =
    [some 0x200#12, some 0x200#12, some 0x013#12, some 0x200#12] := by decide
theorem test_jbe : jumpRow 0x0E#8 =
    [some 0x013#12, some 0x200#12, some 0x200#12, some 0x013#12] := by decide
theorem test_ja : jumpRow 0x0F#8 =
    [some 0x200#12, some 0x013#12, some 0x013#12, some 0x200#12] := by decide
theorem test_jmp : jumpRow 0x10#8 =
    [some 0x200#12, some 0x200#12, some 0x200#12, some 0x200#12] := by decide

/-! ### Stack, call and return -/

/-- Vector ST3: a push at `sp` = 0xFF. -/
theorem test_push_wraps : (run 0x91#8 0x00#8 0x00#8 ((withRegs 0xAA#8 0#8 0#8 0#8).setSp 0xFF#8)).map
    (fun t => (t.readByte 0xFFF#12, t.sp)) = some (0xAA#8, 0x00#8) := by decide
/-- Vector ST2. -/
theorem test_push_immediate : (run 0x11#8 0x00#8 0x07#8 (State.reset.setSp 0x01#8)).map
    (fun t => (t.readByte 0xF01#12, t.sp)) = some (0x07#8, 0x02#8) := by decide
/-- Vector ST4: a pop at `sp` = 0. -/
theorem test_pop_wraps : (run 0x12#8 0xC0#8 0x00#8 (State.reset.writeByte 0xFFF#12 0x5C#8)).map
    (fun t => (t.x.r3, t.sp, t.readByte 0xFFF#12)) = some (0x5C#8, 0xFF#8, 0x5C#8) := by decide
/-- Vector ST6: a call at `sp` = 0xFF. -/
theorem test_call_wraps :
    (nextOf (step (withWord 0x100#12 0x13#8 0x06#8 0x66#8 (State.reset.setSp 0xFF#8)))).map
      (fun t => (t.readByte 0xFFF#12, t.readByte 0xF00#12, t.sp, t.pc)) =
      some (0x03#8, 0x01#8, 0x01#8, 0x666#12) := by decide
/-- Vector ST8: the high bits of the popped byte are dropped. -/
theorem test_ret_masks : (run 0x14#8 0x00#8 0x00#8 (((State.reset.setSp 0x02#8).writeByte
    0xF00#12 0x34#8).writeByte 0xF01#12 0xF2#8)).map (fun t => (t.pc, t.sp)) =
    some (0x234#12, 0x00#8) := by decide

/-! ### Ports -/

/-- Vector IO2: the port number is read before the write; the byte is the free draw. -/
theorem test_in : (run 0x95#8 0x50#8 0x00#8 (withRegs 0#8 0x22#8 0#8 0#8)).map
    (fun t => (t.x.r1, t.events, t.draws)) = some (Config.portInput 0 0x22#8,
      [.input 0x22#8 (Config.portInput 0 0x22#8)], 1) := rfl
/-- Vector IO4. -/
theorem test_out : (run 0x96#8 0xA0#8 0x00#8 (withRegs 0#8 0#8 0x33#8 0#8)).map
    (fun t => (t.events, t.x)) =
    some ([.output 0x33#8 0x33#8], ⟨0#8, 0#8, 0x33#8, 0#8⟩) := by decide

/-! ### Traps -/

/-- The state of vector TR1, with I as given. -/
def trapState (i : Bool) : State :=
  withFlags false false false i
    { withWord 0x123#12 0x00#8 0x00#8 0x00#8
        (((withRegs 0#8 0#8 0#8 0#8).writeByte 0xEFE#12 0x34#8).writeByte 0xEFF#12 0xF2#8) with
      irqPending := true }

/-- Vector TR1. -/
theorem test_interrupt : (nextOf (step (trapState true))).map (fun t =>
    (t.readByte 0xF00#12, t.readByte 0xF01#12, t.sp, t.pc, t.irqPending, t.flags.toByte)) =
    some (0x23#8, 0x01#8, 0x02#8, 0x234#12, false, 0x08#8) := by decide
/-- Vector TR2: masked under Discard, so HLT runs. -/
theorem test_interrupt_masked : (nextOf (step (trapState false))).map
    (fun t => (t.irqPending, t.run, t.pc)) = some (false, .halted, 0x126#12) := by decide
/-- Vector TR3: masked under Hold. -/
theorem test_interrupt_held :
    (nextOf (step { trapState false with cfg := { cfg with irqMasked := .hold } })).map
      (fun t => (t.irqPending, t.run)) = some (true, .halted) := by decide
/-- Vector TR4, the first step: the syscall is taken first. -/
theorem test_syscall_first :
    (nextOf (step { (trapState true).writeByte 0xEFD#12 0x02#8 with
      sysPending := true, pc := 0x050#12 })).map
      (fun t => (t.readByte 0xF00#12, t.readByte 0xF01#12, t.pc, t.sp, t.sysPending, t.irqPending)) =
      some (0x50#8, 0x00#8, 0x200#12, 0x02#8, false, true) := by decide
/-- Vector TR1 under VECTOR_BYTE_ORDER = Big and ENTRY_CLEARS_I. -/
theorem test_interrupt_big :
    (nextOf (step { trapState true with
      cfg := { cfg with vectorOrder := .big, entryClearsI := true } })).map
      (fun t => (t.pc, t.flags.toByte)) = some (0x4F2#12, 0x00#8) := by decide

/-! ### Load -/

def anyDraw : ResetDraw := ⟨⟨1#8, 2#8, 3#8, 4#8⟩, 5#8, ⟨true, false, false, true⟩, [9#8, 8#8, 7#8]⟩

/-- spec/70_reset_and_hazards.md R250: a two-byte image over a used state. -/
theorem test_load : (nextOf ((trapState true).load anyDraw [0x01#8, 0x40#8])).map
    (fun t => (t.mem, t.pc, t.x, t.run)) =
    some ([(0, 0x01#8), (1, 0x40#8)], 0x000#12, ⟨0#8, 0#8, 0#8, 0#8⟩, .running) := by decide
/-- spec/10_state.md R39 under RESET_VALUE_POLICY = Unspecified. -/
theorem test_load_unspecified :
    (nextOf (({ State.reset with cfg := { cfg with resetPolicy := .unspecified } }).load anyDraw
      [0x01#8])).map (fun t => (t.mem, t.sp, t.x.r3)) =
    some ([(0, 0x01#8), (1, 8#8), (2, 7#8)], 5#8, 4#8) := by decide

/-! ### Witnesses: a state and operands that meet the hypotheses of each statement -/

/-- LDR R0, 5 at 0x010, Running with no request. -/
def ldrState : State := withWord 0x010#12 0x01#8 0x00#8 0x05#8 (withRegs 1#8 2#8 3#8 4#8)

theorem ldrState_noTrap : ¬TrapDue ldrState := by unfold TrapDue; decide

theorem witness_DecodeEncodeRoundTrip : (Instr.ldr .r3 (.imm 0x0FF#12)).wellFormed = true := by
  decide

theorem witness_DecodedInstructionsWellFormed :
    decode 0x01#8 0x00#8 0xFF#8 = .instr (.ldr .r0 (.imm 0x0FF#12)) := by decide

theorem witness_EncodePacksFields_data :
    (Instr.push (.imm 0x0FF#12)).wellFormed = true ∧
      (⟨"PUSH", 0x11#7, .registerOrImmediate, .none, .data⟩ : Descriptor) ∈ descriptors ∧
      "PUSH" = (Instr.push (.imm 0x0FF#12)).mnemonic := by decide

theorem witness_EncodePacksFields_noImmediate (v : Addr) :
    (Instr.str (.reg .r1) .r2).operands.1 ≠ some (.imm v) ∧
      (Instr.str (.reg .r1) .r2).operands.2 ≠ some (.imm v) := by
  constructor <;> simp [Instr.operands]

theorem witness_UndefinedOpcodesAreIllegal :
    0x17 ≤ (0x17#8).toNat % 0x80 ∧ 0x17 ≤ (0xFF#8).toNat % 0x80 ∧
      ¬0x17 ≤ (0x96#8).toNat % 0x80 := by decide

theorem witness_IgnoredBitsNeverMatter :
    0x013F05#24 &&& usedBits ((0x013F05#24).extractLsb' 16 7) ((0x013F05#24).getLsbD 23) =
      0x010005#24 &&& usedBits ((0x013F05#24).extractLsb' 16 7) ((0x013F05#24).getLsbD 23) := by
  decide

theorem witness_StepRunsDecodedInstruction :
    ldrState.run = .running ∧ ¬TrapDue ldrState ∧
      decode (ldrState.readByte ldrState.pc) (ldrState.readByte (ldrState.pc + 1#12))
        (ldrState.readByte (ldrState.pc + 2#12)) = .instr (.ldr .r0 (.imm 0x005#12)) ∧
      (Instr.ldr .r0 (.imm 0x005#12)).wellFormed = true :=
  ⟨rfl, ldrState_noTrap, by decide, by decide⟩

/-- Opcode 0x17 at 0xFFE, across the top of memory. -/
def undefinedState : State := withWord 0xFFE#12 0x17#8 0x00#8 0x00#8 State.reset

theorem witness_StepHaltsOnUndefinedOpcode :
    undefinedState.run = .running ∧ ¬TrapDue undefinedState ∧
      0x17 ≤ (undefinedState.readByte undefinedState.pc).toNat % 0x80 :=
  ⟨rfl, by unfold TrapDue; decide, by decide⟩

theorem witness_RunningStepsAndHaltedDoesNot :
    State.reset.run = .running ∧ { State.reset with run := .halted }.run = .halted := ⟨rfl, rfl⟩

/-- After reset the empty memory holds HLT. -/
theorem witness_OnlyThreeWaysToHalt : ∃ t, step State.reset = .next t ∧ t.run = .halted :=
  ⟨_, rfl, rfl⟩

/-- Both requests pending, I = 1. -/
def bothState : State := { trapState true with sysPending := true }

theorem witness_SyscallTrapIsTakenFirst :
    bothState.mem.wf = true ∧ bothState.run = .running ∧ bothState.sysPending = true ∧
      (bothState.cfg.syscallMaskedByI = true → bothState.flags.i = true) := by decide

theorem witness_EnabledInterruptTrapIsTaken :
    (trapState true).mem.wf = true ∧ (trapState true).run = .running ∧
      (trapState true).irqPending = true ∧ (trapState true).flags.i = true ∧
      (trapState true).sysPending = false := by decide

/-- The two policies, Discard and Hold. -/
theorem witness_MaskedInterruptDroppedOrHeld (p : Config.IrqMaskedPolicy) :
    ∃ s t : State, s.cfg.irqMasked = p ∧ s.irqPending = true ∧ s.flags.i = false ∧ ¬TrapDue s ∧
      step s = .next t := by
  cases p
  all_goals
    refine ⟨{ trapState false with cfg := { cfg with irqMasked := _ } }, _, rfl, rfl, rfl, ?_, rfl⟩
    rintro (h | h)
    · exact absurd h.1 (by decide)
    · exact absurd h.2 (by decide)

theorem witness_BothRequestsTakeTwoSteps :
    bothState.mem.wf = true ∧ bothState.run = .running ∧ bothState.sysPending = true ∧
      bothState.irqPending = true ∧ bothState.flags.i = true ∧
      bothState.cfg.entryClearsI = false := by decide

theorem witness_RetReturnsFromTrap :
    (trapState true).mem.wf = true ∧
      ∃ u : State, u.mem = ((trapState true).trapEntry 0xEFE#12).mem ∧
        u.sp = ((trapState true).trapEntry 0xEFE#12).sp :=
  ⟨by decide, (trapState true).trapEntry 0xEFE#12, rfl, rfl⟩

theorem witness_EveryByteIsReadableAndWritable :
    ldrState.mem.wf = true ∧ (0xFFF#12 : Addr) ≠ 0x000#12 := by decide

theorem witness_CanonicalMemoriesReadAlikeAreEqual :
    Memory.wf [(0, 1#8), (4095, 2#8)] = true ∧
      ∀ a : Addr, Memory.read [(0, 1#8), (4095, 2#8)] a.toNat =
        Memory.read (Memory.write [(0, 1#8)] 4095 2#8) a.toNat :=
  ⟨by decide, fun _ => rfl⟩

/-- A store into each byte of the next word, the state being the one after the fetch. -/
theorem witness_FetchSeesEarlierStore (k : Addr) (hk : k = 0#12 ∨ k = 1#12 ∨ k = 2#12) :
    ldrState.mem.wf = true ∧ ∃ t, exec (.str (.imm (0x010#12 + k)) .r1) ldrState = .next t ∧
      t.pc + k = 0x010#12 + k := by
  rcases hk with rfl | rfl | rfl <;> exact ⟨by decide, _, rfl, rfl⟩

theorem witness_StepKeepsMemoryCanonical :
    ldrState.mem.wf = true ∧ ∃ t, step ldrState = .next t := ⟨by decide, _, rfl⟩

theorem witness_StepKeepsDiagMatchingRun :
    DiagMatchesRun State.reset ∧ ∃ t, step State.reset = .next t :=
  ⟨by unfold DiagMatchesRun; decide, _, rfl⟩

theorem witness_StepKeepsFlagsExclusive :
    FlagsExclusive (withFlags false true false true ldrState).flags ∧
      ∃ t, step (withFlags false true false true ldrState) = .next t :=
  ⟨by unfold FlagsExclusive; decide, _, rfl⟩

theorem witness_StepKeepsParametersAndEnable :
    ∃ t, step (trapState true) = .next t ∧ (trapState true).cfg.updateFlagsClearsI = false ∧
      (trapState true).cfg.entryClearsI = false ∧ t.flags.i = true := ⟨_, rfl, rfl, rfl, rfl⟩

theorem witness_HostKeepsInvariant :
    Inv State.reset ∧ ∃ t, State.reset.load anyDraw [0x01#8] = .next t :=
  ⟨⟨rfl, by unfold DiagMatchesRun; decide⟩, _, rfl⟩

theorem witness_ReachableStatesSatisfyInvariant : Reachable { State.reset with cfg := cfg } :=
  .reset cfg

theorem witness_OnlyAluWritesFlags : (Instr.jz 0#12).mnemonic ∉ ["ADD", "SUB", "CMP"] ∧
    ∃ t, exec (.jz 0#12) ldrState = .next t := ⟨by decide, _, rfl⟩

/-- A PUSH at 0x010. -/
def pushState : State := withWord 0x010#12 0x11#8 0x00#8 0x07#8 State.reset

theorem witness_OnlyStackOperationsMoveSp :
    ∃ t, step pushState = .next t ∧ t.sp ≠ pushState.sp := ⟨_, rfl, by decide⟩

/-- STR 0xEFF, R1 at 0x010: the highest address below the stack region. -/
def strState : State := withWord 0x010#12 0x04#8 0x1E#8 0xFF#8 (withRegs 0#8 0x55#8 0#8 0#8)

theorem witness_OnlyStoresWriteMemory_low :
    ∃ t, step strState = .next t ∧ t.readByte 0xEFF#12 ≠ strState.readByte 0xEFF#12 ∧
      (0xEFF#12 : Addr).toNat < 0xF00 := ⟨_, rfl, by decide, by decide⟩

theorem witness_OnlyStoresWriteMemory_stack :
    ∃ t, step pushState = .next t ∧ t.readByte 0xF00#12 ≠ pushState.readByte 0xF00#12 :=
  ⟨_, rfl, by decide⟩

theorem witness_OnlyInAndOutReachPorts : ∃ t,
    step (withWord 0x010#12 0x16#8 0x10#8 0x41#8 State.reset) = .next t ∧ t.events ≠ [] :=
  ⟨_, rfl, by decide⟩

theorem witness_PushWritesThenIncrements : (State.reset.setSp 0xFF#8).mem.wf = true := by decide

theorem witness_PopReturnsWhatPushPushed :
    (ldrState.setSp 0xFF#8).mem.wf = true ∧
      ∃ t u : State, exec (.push (.reg .r1)) (ldrState.setSp 0xFF#8) = .next t ∧
        u.mem = t.mem ∧ u.sp = t.sp := ⟨by decide, _, _, rfl, rfl, rfl⟩

theorem witness_RetReturnsToCaller :
    (ldrState.setSp 0xFF#8).mem.wf = true ∧
      ∃ t u : State, exec (.call 0x666#12) (ldrState.setSp 0xFF#8) = .next t ∧
        u.mem = t.mem ∧ u.sp = t.sp := ⟨by decide, _, _, rfl, rfl, rfl⟩

theorem witness_LdrLoadsValue : (decodeFields 0x81#8 0x60#8 0x00#8).op = 0x01#7 := by decide

theorem witness_StiStoresImmediate : ldrState.mem.wf = true := by decide

theorem witness_StrStoresRegister : strState.mem.wf = true := by decide

theorem witness_AddComputesSumAndFlags :
    (decodeFields 0x85#8 0x10#8 0x00#8).op = 0x05#7 := by decide

theorem witness_JmpSetsPc : (decodeFields 0x90#8 0x00#8 0x30#8).op = 0x10#7 := by decide

theorem witness_JumpsAfterSubAndCmp (i : Instr) (hi : i = .sub .r0 .r1 ∨ i = .cmp .r0 .r1) :
    ∃ t, exec i ldrState = .next t := by
  rcases hi with rfl | rfl <;> exact ⟨_, rfl⟩

theorem witness_JumpsAfterAdd : ∃ t, exec (.add .r0 .r1) ldrState = .next t := ⟨_, rfl⟩

theorem witness_PushStoresOperand : (ldrState.setSp 0xFF#8).mem.wf = true := by decide

theorem witness_CallPushesReturnAddress : (ldrState.setSp 0xFE#8).mem.wf = true := by decide

/-- The two lengths at the limit, and the two addresses at the end of an image. -/
theorem witness_LoadPlacesImage :
    (List.replicate 4096 0x01#8).length ≤ 4096 ∧ 4096 < (List.replicate 4097 0x01#8).length ∧
      State.reset.cfg.resetPolicy = .zero ∧ (0x001#12 : Addr).toNat < [0x01#8, 0x02#8].length ∧
      [0x01#8, 0x02#8].length ≤ (0x002#12 : Addr).toNat := by
  simp only [List.length_replicate]
  decide

theorem witness_UnspecifiedLoadTakesDraws : [0x01#8].length ≤ 4096 ∧
    { State.reset with cfg := { cfg with resetPolicy := .unspecified } }.cfg.resetPolicy =
      .unspecified ∧ [0x01#8].length ≤ (0x001#12 : Addr).toNat := by decide

end Sys2Proof.Tests
end

section
/-! PROOFS. The register file (spec/10_state.md R21): which register a 2-bit field selects, and what
a register read returns after a register write. -/

namespace Sys2Proof.Machine

/-- The rule for a register read after a register write: the write reaches the register it names and
no other one, whatever the value. -/
theorem State.setReg_reg (s : State) (r q : Reg) (v : Byte) :
    (s.setReg r v).reg q = if q = r then v else s.reg q := by
  split
  case isTrue h => rw [h, State.setReg_reg_self]
  case isFalse h => exact State.setReg_reg_of_ne s v h

/-- Settles O33: each field value selects its own register by the table of `regOfBits`, and the rest
is the read-after-write rule `State.setReg_reg`. -/
theorem registersAreIndependent : Obligations.RegistersAreIndependent := by
  unfold Obligations.RegistersAreIndependent
  exact ⟨rfl, rfl, rfl, rfl, State.setReg_reg⟩

end Sys2Proof.Machine
end

section
/-! PROOFS. The memory (spec/20_memory.md R50): what a byte read returns after a byte write, at the
address written and at every other one. -/

namespace Sys2Proof.Machine

/-- Settles O19: the two read-after-write rules of a byte. Canonical form matters only at the address
written, where `State.writeByte` drops the entry when the value is the one an unlisted byte reads as;
every other address reads as before in any memory. -/
theorem everyByteIsReadableAndWritable : Obligations.EveryByteIsReadableAndWritable := by
  unfold Obligations.EveryByteIsReadableAndWritable
  intro s a v hwf
  constructor
  case left => exact State.readByte_writeByte_self a v hwf
  case right =>
    intro b hne
    exact State.readByte_writeByte_of_ne v hne

end Sys2Proof.Machine
end

section
/-! PROOFS. The fields of a machine word as numbers (spec/30_encoding.md R72, R73): what decoding reads
from any three bytes, and what packing puts into them. -/

namespace Sys2Proof

/-- `{hi, lo}` as a number: the low part takes the low bits. -/
theorem toNat_append_eq_add {n w : Nat} (hi : BitVec n) (lo : BitVec w) :
    (hi ++ lo).toNat = hi.toNat * 2 ^ w + lo.toNat := by
  rw [BitVec.toNat_append, Nat.shiftLeft_eq, Nat.mul_comm, Nat.two_pow_add_eq_or_of_lt lo.isLt]

/-- A bit field as a number: drop the bits below `start`, keep the next `len`. -/
theorem toNat_extractLsb'_eq_div_mod {n : Nat} (start len : Nat) (x : BitVec n) :
    (x.extractLsb' start len).toNat = x.toNat / 2 ^ start % 2 ^ len := by
  rw [BitVec.extractLsb'_toNat, Nat.shiftRight_eq_div_pow]

/-- M is the top bit of Byte0. -/
theorem decodeFields_m_iff (b0 b1 b2 : Byte) :
    (decodeFields b0 b1 b2).m = true ↔ 0x80 ≤ b0.toNat := by
  have htop : (decodeFields b0 b1 b2).m = b0.msb := (BitVec.msb_eq_getLsbD_last b0).symm
  rw [htop, BitVec.msb_eq_decide, decide_eq_true_iff]

theorem decodeFields_op_toNat (b0 b1 b2 : Byte) :
    (decodeFields b0 b1 b2).op.toNat = b0.toNat % 0x80 := by
  simp only [decodeFields, toNat_extractLsb'_eq_div_mod]
  omega

theorem decodeFields_d_toNat (b0 b1 b2 : Byte) :
    (decodeFields b0 b1 b2).d.toNat = b1.toNat / 64 := by
  have hb1 := b1.isLt
  simp only [decodeFields, toNat_extractLsb'_eq_div_mod]
  omega

theorem decodeFields_s_toNat (b0 b1 b2 : Byte) :
    (decodeFields b0 b1 b2).s.toNat = b1.toNat / 16 % 4 :=
  toNat_extractLsb'_eq_div_mod 4 2 b1

/-- A12 is AH, the low half of Byte1, above Byte2. -/
theorem decodeFields_a12_toNat (b0 b1 b2 : Byte) :
    (decodeFields b0 b1 b2).a12.toNat = b1.toNat % 16 * 256 + b2.toNat := by
  simp only [decodeFields, toNat_append_eq_add, toNat_extractLsb'_eq_div_mod]
  omega

/-- Settles O3, field by field; K is Byte2 itself. -/
theorem decodeReadsEveryField : Obligations.DecodeReadsEveryField := by
  unfold Obligations.DecodeReadsEveryField
  intro b0 b1 b2
  exact ⟨decodeFields_m_iff b0 b1 b2, decodeFields_op_toNat b0 b1 b2, decodeFields_d_toNat b0 b1 b2,
    decodeFields_s_toNat b0 b1 b2, rfl, decodeFields_a12_toNat b0 b1 b2⟩

/-- Byte0 is `{M, op}`. -/
theorem encodeFields_byte0_toNat (op : Opcode) (m : Bool) (d s : BitVec 2) (v : Addr) :
    (encodeFields op m d s v).1.toNat = (if m then 0x80 else 0) + op.toNat := by
  simp only [encodeFields, toNat_append_eq_add, BitVec.toNat_ofBool]
  cases m <;> simp

/-- Byte1 is `{D, S, AH}`, AH the bits of the value from 8 up. -/
theorem encodeFields_byte1_toNat (op : Opcode) (m : Bool) (d s : BitVec 2) (v : Addr) :
    (encodeFields op m d s v).2.1.toNat = d.toNat * 64 + s.toNat * 16 + v.toNat / 256 := by
  have hv := v.isLt
  simp only [encodeFields, toNat_append_eq_add, toNat_extractLsb'_eq_div_mod]
  omega

/-- Byte2 is the low byte of the value. -/
theorem encodeFields_byte2_toNat (op : Opcode) (m : Bool) (d s : BitVec 2) (v : Addr) :
    (encodeFields op m d s v).2.2.toNat = v.toNat % 256 := by
  simp only [encodeFields, toNat_extractLsb'_eq_div_mod, pow_zero, Nat.div_one, Nat.reducePow]

/-- AH as a number, the low half of Byte1: the value without its low byte. -/
theorem encodeFields_ah_toNat (op : Opcode) (m : Bool) (d s : BitVec 2) (v : Addr) :
    (encodeFields op m d s v).2.1.toNat % 16 = v.toNat / 256 := by
  have hv := v.isLt
  rw [encodeFields_byte1_toNat]
  omega

end Sys2Proof
end

section
/-! PROOFS. The value field of an encoded instruction (spec/30_encoding.md R73, R76): where the value
comes from, and how large it is in an instruction of width Data. -/

namespace Sys2Proof

/-- `v` is an immediate operand of the instruction. -/
def Instr.HasImmediate (i : Instr) (v : Addr) : Prop :=
  i.operands.1 = some (.imm v) ∨ i.operands.2 = some (.imm v)

/-- The width of an instruction; `width_eq_of_mnemonic_eq` ties it to the descriptor table. -/
def Instr.width : Instr → Width
  | .ldm _ _ | .str _ _ | .jz _ | .jnz _ | .jn _ | .jnn _ | .jc _ | .jnc _ | .jbe _ | .ja _ | .jmp _
  | .call _ => .address
  | .hlt | .ldr _ _ | .sti _ _ | .add _ _ | .sub _ _ | .cmp _ _ | .push _ | .pop _ | .ret
  | .inPort _ _ | .outPort _ _ => .data

/-- A mnemonic names one row of the table, and that row has the instruction's width. -/
theorem width_eq_of_mnemonic_eq (i : Instr) :
    ∀ desc ∈ descriptors, desc.mnemonic = i.mnemonic → desc.width = i.width := by
  cases i <;> simp only [Instr.mnemonic, Instr.width] <;> decide

/-- The value packed for an operand is 0 or the operand itself. -/
theorem Operand.immBits_eq_zero_or (o : Operand) : o.immBits = 0#12 ∨ o = .imm o.immBits := by
  cases o with
  | reg r => exact .inl rfl
  | imm v => exact .inr rfl

theorem Operand.fitsData_imm {v : Addr} : (Operand.imm v).fitsData = true ↔ v.toNat ≤ 0xFF :=
  decide_eq_true_iff

/-- Encoding packs 0 or an immediate operand of the instruction, nothing else, as the value. -/
theorem encode_eq_encodeFields (i : Instr) :
    ∃ op m d s v, encode i = encodeFields op m d s v ∧ (v = 0#12 ∨ i.HasImmediate v) := by
  cases i with
  | hlt | ret | add _ _ | sub _ _ | cmp _ _ | pop _ => exact ⟨_, _, _, _, _, rfl, .inl rfl⟩
  | jz a | jnz a | jn a | jnn a | jc a | jnc a | jbe a | ja a | jmp a | call a =>
    exact ⟨_, _, _, _, _, rfl, .inr (.inl rfl)⟩
  | str o _ | push o | outPort o _ =>
    exact ⟨_, _, _, _, _, rfl, o.immBits_eq_zero_or.imp_right fun h => .inl (congrArg some h)⟩
  | ldr _ o | ldm _ o | sti _ o | inPort _ o =>
    exact ⟨_, _, _, _, _, rfl, o.immBits_eq_zero_or.imp_right fun h => .inr (congrArg some h)⟩

/-- Every immediate of a well-formed instruction of width Data is a byte. -/
theorem immediate_le_of_width_data {i : Instr} {v : Addr} (hwf : i.wellFormed = true)
    (hwidth : i.width = .data) (himm : i.HasImmediate v) : v.toNat ≤ 0xFF := by
  cases i with
  | ldr _ o | sti _ o | push o | inPort _ o | outPort o _ =>
    obtain rfl : o = .imm v := by simpa [Instr.HasImmediate, Instr.operands] using himm
    exact Operand.fitsData_imm.mp hwf
  | hlt | ret | add _ _ | sub _ _ | cmp _ _ | pop _ =>
    simp [Instr.HasImmediate, Instr.operands] at himm
  | ldm _ _ | str _ _ | jz _ | jnz _ | jn _ | jnn _ | jc _ | jnc _ | jbe _ | ja _ | jmp _ | call _ =>
    exact Width.noConfusion hwidth

/-- A well-formed instruction of width Data has AH 0, since the value it packs is at most 0xFF. -/
theorem encode_ah_eq_zero_of_width_data {i : Instr} (hwf : i.wellFormed = true)
    (hwidth : i.width = .data) : (encode i).2.1.toNat % 16 = 0 := by
  obtain ⟨op, m, d, s, v, henc, hv⟩ := encode_eq_encodeFields i
  have hle : v.toNat ≤ 0xFF := by
    obtain rfl | himm := hv
    · exact Nat.zero_le _
    · exact immediate_le_of_width_data hwf hwidth himm
  rw [henc, encodeFields_ah_toNat]
  omega

/-- An instruction with no immediate packs the value 0. -/
theorem encode_value_eq_zero_of_no_immediate {i : Instr} (hnone : ∀ v, ¬ i.HasImmediate v) :
    (encode i).2.1.toNat % 16 = 0 ∧ (encode i).2.2.toNat = 0 := by
  obtain ⟨op, m, d, s, v, henc, hv⟩ := encode_eq_encodeFields i
  obtain rfl := hv.resolve_right (hnone v)
  rw [henc, encodeFields_ah_toNat, encodeFields_byte2_toNat]
  exact ⟨rfl, rfl⟩

/-- Settles O4: the packed bytes as numbers, then the value field of an instruction of width Data and
of one with no immediate. -/
theorem encodePacksFields : Obligations.EncodePacksFields := by
  unfold Obligations.EncodePacksFields
  refine ⟨fun op m d s v => ?packing, fun i desc hwf hrow hname hwidth => ?dataWidth,
    fun i hnone => ?noImmediate⟩
  case packing =>
    exact ⟨encodeFields_byte0_toNat op m d s v, encodeFields_byte1_toNat op m d s v,
      encodeFields_byte2_toNat op m d s v⟩
  case dataWidth =>
    have hdata : i.width = .data := (width_eq_of_mnemonic_eq i desc hrow hname).symm.trans hwidth
    exact encode_ah_eq_zero_of_width_data hwf hdata
  case noImmediate =>
    exact encode_value_eq_zero_of_no_immediate fun v => not_or.mpr (hnone v)

end Sys2Proof
end

section
/-! PROOFS. LDR (spec/41_data_transfer.md R131): the word it decodes from, and the one register it
writes, for either form of its source. -/

namespace Sys2Proof.Machine

/-- Opcode 0x01 selects the LDR row; M chooses the source, a register or K. -/
theorem decode_of_op_ldr {b0 b1 b2 : Byte} (hop : (decodeFields b0 b1 b2).op = 0x01#7) :
    decode b0 b1 b2 = .instr (.ldr (regOfBits (decodeFields b0 b1 b2).d)
      (regOrImm (decodeFields b0 b1 b2).s .data (decodeFields b0 b1 b2))) := by
  rw [decode, decodeInstr, hop]
  rfl

/-- An immediate widened from a byte has that byte as its value, none of it lost. -/
@[simp] theorem State.operandValue_imm_setWidth (s : State) (k : Byte) :
    s.operandValue (.imm (k.setWidth 12)) = k := by
  rw [State.operandValue, BitVec.setWidth_setWidth_of_le k (by decide), BitVec.setWidth_eq]

/-- What LDR does with any source: the destination takes the operand's value, and that register is all
it writes. -/
theorem exec_ldr (d : Reg) (src : Operand) (s : State) :
    ∃ t : State, exec (.ldr d src) s = .next t ∧ t.reg d = s.operandValue src ∧
      OnlyWrites [d] [] s t :=
  ⟨s.setReg d (s.operandValue src), rfl, State.setReg_reg_self s d _, State.setReg_onlyWrites s d _⟩

/-- Settles O39: the row of opcode 0x01, then `exec_ldr` at each of the two forms of the source. -/
theorem ldrLoadsValue : Obligations.LdrLoadsValue := by
  unfold Obligations.LdrLoadsValue
  refine ⟨fun b0 b1 b2 hop => ?decoding, fun d r s => ?register, fun d k s => ?immediate⟩
  case decoding => exact decode_of_op_ldr hop
  case register => exact exec_ldr d (.reg r) s
  case immediate =>
    have hldr := exec_ldr d (.imm (k.setWidth 12)) s
    rwa [State.operandValue_imm_setWidth] at hldr

end Sys2Proof.Machine
end

section
/-! PROOFS. Push8 and Pop8 (spec/44_stack_call.md R190, R191): each is a write of `sp` to the next or
the previous slot number mod 256, after at most one byte write. -/

namespace Sys2Proof.Machine

theorem OnlyWrites.refl (regs : List Reg) (stored : List Addr) (s : State) :
    OnlyWrites regs stored s s where
  regs := SameRegsExcept.refl regs s
  memory := SameMemoryExcept.refl stored s
  pc := rfl
  sp := rfl
  flags := rfl
  system := SameSystem.refl s
  ports := SamePorts.refl s

/-- A write of `sp` adds nothing else to what was written before it (spec/10_state.md R31). -/
theorem OnlyWrites.frame_setSp {regs : List Reg} {stored : List Addr} {s t : State}
    (h : OnlyWrites regs stored s t) (p : Byte) :
    SameMemoryExcept stored s (t.setSp p) ∧ SameRegsExcept regs s (t.setSp p) ∧
      (t.setSp p).pc = s.pc ∧ (t.setSp p).flags = s.flags ∧
      SameSystem s (t.setSp p) ∧ SamePorts s (t.setSp p) := by
  obtain ⟨hregs, hmem, hpc, _, hflags, ⟨hrun, hdiag, hirq, hsys, hia, hcfg⟩, ⟨hevents, hdraws⟩⟩ := h
  exact ⟨hmem, hregs, hpc, hflags, ⟨hrun, hdiag, hirq, hsys, hia, hcfg⟩, ⟨hevents, hdraws⟩⟩

/-- A push advances `sp` by one slot, from the last slot back to the first. -/
theorem State.push8_sp_toNat (s : State) (v : Byte) :
    (s.push8 v).sp.toNat = (s.sp.toNat + 1) % 256 := by
  rw [State.push8_sp, BitVec.toNat_add]
  rfl

/-- A pop takes `sp` back by one slot, from the first slot to the last. -/
theorem State.popState_sp_toNat (s : State) : s.popState.sp.toNat = (s.sp.toNat + 255) % 256 := by
  rw [State.popState_sp, BitVec.toNat_sub, Nat.add_comm]
  rfl

/-- Pop8 reads at the slot that the decremented `sp` addresses, and it reads the memory it started
from. -/
theorem State.popValue_eq_readByte (s : State) :
    s.popValue = s.readByte (stackAddr s.popState.sp) := rfl

/-- Settles O34: a push is a byte write at the slot of the old `sp`, then the write of the new `sp`. -/
theorem pushWritesThenIncrements : Obligations.PushWritesThenIncrements := by
  unfold Obligations.PushWritesThenIncrements
  intro s v
  have hwrite : OnlyWrites [] [stackAddr s.sp] s (s.writeByte (stackAddr s.sp) v) :=
    State.writeByte_onlyWrites s (stackAddr s.sp) v
  exact ⟨State.push8_readByte_self v, State.push8_sp_toNat s v, hwrite.frame_setSp (s.sp + 1#8)⟩

/-- Settles O35: a pop is the write of the new `sp` alone, and its value is the byte at that slot. -/
theorem popDecrementsThenReads : Obligations.PopDecrementsThenReads := by
  unfold Obligations.PopDecrementsThenReads
  intro s
  exact ⟨State.popState_sp_toNat s, State.popValue_eq_readByte s,
    (OnlyWrites.refl [] [] s).frame_setSp (s.sp - 1#8)⟩

end Sys2Proof.Machine
end

section
/-! PROOFS. The word and its fields (spec/30_encoding.md R72, R73, R92): packing and unpacking are
inverse to each other, and decoding undoes encoding on every well-formed instruction. -/

namespace Sys2Proof

theorem Fields.eq_of_fields_eq {f g : Fields} (hop : f.op = g.op) (hm : f.m = g.m) (hd : f.d = g.d)
    (hs : f.s = g.s) (hk : f.k = g.k) (ha : f.a12 = g.a12) : f = g := by
  obtain ⟨op, m, d, s, k, a12⟩ := f
  obtain rfl : op = g.op := hop
  obtain rfl : m = g.m := hm
  obtain rfl : d = g.d := hd
  obtain rfl : s = g.s := hs
  obtain rfl : k = g.k := hk
  obtain rfl : a12 = g.a12 := ha
  rfl

/-- Unpacking what was packed: K is then the low byte of the packed value. -/
theorem decodeFields_encodeFields (op : Opcode) (m : Bool) (d s : BitVec 2) (v : Addr) :
    decodeFields (encodeFields op m d s v).1 (encodeFields op m d s v).2.1
      (encodeFields op m d s v).2.2 = ⟨op, m, d, s, v.extractLsb' 0 8, v⟩ := by
  have hop := op.isLt
  have hd := d.isLt
  have hs := s.isLt
  have hv := v.isLt
  refine Fields.eq_of_fields_eq (Laws.EncodeOpcode.op_of_encodeFields op m d s v) ?m ?d ?s rfl ?a12
  case m =>
    rw [Bool.eq_iff_iff, decodeFields_m_iff, encodeFields_byte0_toNat]
    cases m with
    | false => simpa using by omega
    | true => simp
  case d =>
    apply BitVec.eq_of_toNat_eq
    rw [decodeFields_d_toNat, encodeFields_byte1_toNat]
    dsimp only
    omega
  case s =>
    apply BitVec.eq_of_toNat_eq
    rw [decodeFields_s_toNat, encodeFields_byte1_toNat]
    dsimp only
    omega
  case a12 =>
    apply BitVec.eq_of_toNat_eq
    rw [decodeFields_a12_toNat, encodeFields_ah_toNat, encodeFields_byte2_toNat]
    exact Nat.div_add_mod' v.toNat 256

/-- Packing what was unpacked: the fields M, op, D, S and A12 hold every bit of the three bytes. -/
theorem encodeFields_decodeFields (b0 b1 b2 : Byte) :
    encodeFields (decodeFields b0 b1 b2).op (decodeFields b0 b1 b2).m (decodeFields b0 b1 b2).d
      (decodeFields b0 b1 b2).s (decodeFields b0 b1 b2).a12 = (b0, b1, b2) := by
  have hb0 := b0.isLt
  have hb2 := b2.isLt
  refine Prod.ext (BitVec.eq_of_toNat_eq ?byte0)
    (Prod.ext (BitVec.eq_of_toNat_eq ?byte1) (BitVec.eq_of_toNat_eq ?byte2))
  case byte0 =>
    rw [encodeFields_byte0_toNat, decodeFields_op_toNat]
    simp only [decodeFields_m_iff]
    split <;> omega
  case byte1 =>
    rw [encodeFields_byte1_toNat, decodeFields_d_toNat, decodeFields_s_toNat,
      decodeFields_a12_toNat]
    dsimp only
    omega
  case byte2 =>
    rw [encodeFields_byte2_toNat, decodeFields_a12_toNat]
    dsimp only
    omega

/-- Settles O5, the two directions being `decodeFields_encodeFields` and
`encodeFields_decodeFields`. -/
theorem fieldsRoundTrip : Obligations.FieldsRoundTrip := by
  unfold Obligations.FieldsRoundTrip
  exact ⟨decodeFields_encodeFields, encodeFields_decodeFields⟩

/-! ### Operands through the encoding -/

@[simp] theorem regOfBits_bits (r : Reg) : regOfBits r.bits = r := by
  cases r <;> rfl

/-- The resolver of an address-width field gives back the operand whose bits were packed. -/
@[simp] theorem regOrImm_address_of_bits (o : Operand) (op : Opcode) (d s : BitVec 2) (k : Byte) :
    regOrImm o.regBits .address ⟨op, o.modeBit, d, s, k, o.immBits⟩ = o := by
  cases o with
  | reg r => exact congrArg Operand.reg (regOfBits_bits r)
  | imm v => rfl

/-- A value of at most 0xFF is its low byte, widened. -/
theorem setWidth_extractLsb'_of_le {v : Addr} (hv : v.toNat ≤ 0xFF) :
    (v.extractLsb' 0 8).setWidth 12 = v := by
  apply BitVec.eq_of_toNat_eq
  rw [BitVec.toNat_setWidth, toNat_extractLsb'_eq_div_mod]
  omega

/-- The resolver of a data-width field reads K, which holds the whole of a fitting immediate. -/
theorem regOrImm_data_of_bits {o : Operand} (hfits : o.fitsData = true) (op : Opcode)
    (d s : BitVec 2) (a12 : Addr) :
    regOrImm o.regBits .data ⟨op, o.modeBit, d, s, o.immBits.extractLsb' 0 8, a12⟩ = o := by
  cases o with
  | reg r => exact congrArg Operand.reg (regOfBits_bits r)
  | imm v => exact congrArg Operand.imm (setWidth_extractLsb'_of_le (Operand.fitsData_imm.mp hfits))

/-- Decoding a packed word is decoding its fields. -/
theorem decode_encodeFields (op : Opcode) (m : Bool) (d s : BitVec 2) (v : Addr) :
    decode (encodeFields op m d s v).1 (encodeFields op m d s v).2.1 (encodeFields op m d s v).2.2 =
      decodeInstr ⟨op, m, d, s, v.extractLsb' 0 8, v⟩ :=
  congrArg decodeInstr (decodeFields_encodeFields op m d s v)

/-- Settles O1: the packed fields come back by `decode_encodeFields`, the opcode selects the row,
and each operand of the row comes back from its bits; well-formedness serves the data-width
operands. -/
theorem decodeEncodeRoundTrip : Obligations.DecodeEncodeRoundTrip := by
  unfold Obligations.DecodeEncodeRoundTrip
  intro i hwf
  cases i with
  | hlt | ret | jz _ | jnz _ | jn _ | jnn _ | jc _ | jnc _ | jbe _ | ja _ | jmp _ | call _ =>
    rw [encode, decode_encodeFields]
    rfl
  | add _ _ | sub _ _ | cmp _ _ | pop _ | ldm _ _ | str _ _ =>
    rw [encode, decode_encodeFields]
    simp [decodeInstr]
  | ldr _ o | sti _ o | push o | inPort _ o | outPort o _ =>
    have hfits : o.fitsData = true := hwf
    rw [encode, decode_encodeFields]
    simp [decodeInstr, regOrImm_data_of_bits hfits]

end Sys2Proof
end

section
/-! PROOFS. The decoder and its table (spec/30_encoding.md R76, R77, R80): the row of an opcode, the
opcodes with no row, and what a decoded instruction is like. -/

namespace Sys2Proof

/-- An immediate of a data-width field is a widened byte. -/
theorem regOrImm_data_fitsData (sel : BitVec 2) (f : Fields) :
    (regOrImm sel .data f).fitsData = true := by
  unfold regOrImm
  split
  · rfl
  · have hk := f.k.isLt
    rw [Operand.fitsData_imm, immediateOf, BitVec.toNat_setWidth]
    omega

/-- Each arm is well formed as it stands, or by its data-width operand; the last gives no
instruction. -/
theorem decodeInstr_wellFormed {f : Fields} {i : Instr} (h : decodeInstr f = .instr i) :
    i.wellFormed = true := by
  unfold decodeInstr at h
  split at h
  case h_24 => cases h
  all_goals
    cases h
    simp only [Instr.wellFormed, regOrImm_data_fitsData]

/-- Settles O2: the rows with a data-width field take their operand from `regOrImm`, whose
immediates fit; every other row is well formed as it stands. -/
theorem decodedInstructionsWellFormed : Obligations.DecodedInstructionsWellFormed := by
  unfold Obligations.DecodedInstructionsWellFormed
  intro b0 b1 b2 i h
  exact decodeInstr_wellFormed h

/-- The fields decode to the instruction that a row of the table describes. -/
def FollowsDescriptor (f : Fields) (desc : Descriptor) : Prop :=
  ∃ i : Instr, decodeInstr f = .instr i ∧ i.mnemonic = desc.mnemonic ∧
    i.operands = (resolve desc.destMode f.d desc.width f, resolve desc.srcMode f.s desc.width f)

/-- The decoder's arm of each row's opcode is that row. -/
theorem followsDescriptor_of_mem {f : Fields} {desc : Descriptor} (hrow : desc ∈ descriptors)
    (hop : desc.op = f.op) : FollowsDescriptor f desc := by
  obtain ⟨op, m, d, s, k, a12⟩ := f
  obtain rfl : desc.op = op := hop
  fin_cases hrow <;> exact ⟨_, rfl, rfl, rfl⟩

/-- The table has a row for exactly the opcodes below 0x17. -/
theorem descriptorOf_eq_none_iff (op : Opcode) : descriptorOf op = none ↔ 0x17 ≤ op.toNat := by
  revert op
  decide

/-- The row of an opcode is a row of the table with that opcode. -/
theorem mem_descriptors_of_descriptorOf {op : Opcode} {desc : Descriptor}
    (h : descriptorOf op = some desc) : desc ∈ descriptors ∧ desc.op = op :=
  ⟨List.mem_of_find?_eq_some h, by simpa using List.find?_some h⟩

/-- The decoder rejects an opcode with no row, by its number. -/
theorem decodeInstr_of_op_undefined {f : Fields} (hop : 0x17 ≤ f.op.toNat) :
    decodeInstr f = .illegalOpcode f.op := by
  unfold decodeInstr
  split
  case h_24 => rfl
  all_goals omega

/-- The decoder rejects exactly the opcodes from 0x17 on: any other one has a row and follows it. -/
theorem decodeInstr_eq_illegalOpcode_iff (f : Fields) :
    decodeInstr f = .illegalOpcode f.op ↔ 0x17 ≤ f.op.toNat := by
  refine ⟨fun hill => ?_, decodeInstr_of_op_undefined⟩
  rw [← descriptorOf_eq_none_iff, Option.eq_none_iff_forall_ne_some]
  intro desc hdesc
  obtain ⟨hrow, hop⟩ := mem_descriptors_of_descriptorOf hdesc
  obtain ⟨i, hi, -, -⟩ := followsDescriptor_of_mem hrow hop
  rw [hi] at hill
  cases hill

/-- Settles O6: with a row, the decoder follows it; with none, it rejects the opcode. -/
theorem decodeFollowsDescriptors : Obligations.DecodeFollowsDescriptors := by
  unfold Obligations.DecodeFollowsDescriptors
  intro b0 b1 b2
  split
  case h_1 hnone => exact decodeInstr_of_op_undefined ((descriptorOf_eq_none_iff _).mp hnone)
  case h_2 desc hsome =>
    obtain ⟨hrow, hop⟩ := mem_descriptors_of_descriptorOf hsome
    exact followsDescriptor_of_mem hrow hop

/-- Settles O7: the table and the decoder give the same range of opcodes, and `runWord` sends a
rejected word to the Error handler. -/
theorem undefinedOpcodesAreIllegal : Obligations.UndefinedOpcodesAreIllegal := by
  unfold Obligations.UndefinedOpcodesAreIllegal
  intro b0 b1 b2
  rw [← decodeFields_op_toNat b0 b1 b2]
  refine ⟨descriptorOf_eq_none_iff _, decodeInstr_eq_illegalOpcode_iff _, fun hop s => ?_⟩
  have hill : decode b0 b1 b2 = .illegalOpcode (decodeFields b0 b1 b2).op :=
    decodeInstr_of_op_undefined hop
  refine ⟨s.halt .illegalOpcode (decodeFields b0 b1 b2).op s.ia, ?_, rfl, rfl⟩
  rw [Machine.runWord, hill]
  rfl

/-- Settles O8: six closed words, each decoded by evaluation. -/
theorem knownWordsDecode : Obligations.KnownWordsDecode := by
  unfold Obligations.KnownWordsDecode
  decide

end Sys2Proof
end

section
/-! PROOFS. The bits a word uses (spec/30_encoding.md R82): words that agree under a mask agree in
every field the mask covers, and a row of the table reads no other field than its modes name. -/

namespace Sys2Proof.Machine

/-! ### The fields of a 24-bit word -/

/-- The fields of a word numbered as R71 numbers it; `runWord24_eq_of_decodeInstr_eq` ties them to
the model. -/
def wordFields (w : BitVec 24) : Fields :=
  decodeFields (w.extractLsb' 16 8) (w.extractLsb' 8 8) (w.extractLsb' 0 8)

/-- A field of a byte is a field of the word, counted from where the byte begins. -/
theorem extractLsb'_extractLsb'_add {n : Nat} (w : BitVec n) {pos size start len : Nat}
    (h : start + len ≤ size) :
    (w.extractLsb' pos size).extractLsb' start len = w.extractLsb' (pos + start) len := by
  ext k hk
  have hin : start + k < size := by omega
  simp [hin, Nat.add_assoc]

theorem wordFields_op (w : BitVec 24) : (wordFields w).op = w.extractLsb' 16 7 :=
  extractLsb'_extractLsb'_add w (by decide)

theorem wordFields_m (w : BitVec 24) : (wordFields w).m = w.getLsbD 23 := by
  simp [wordFields, decodeFields]

theorem wordFields_d (w : BitVec 24) : (wordFields w).d = w.extractLsb' 14 2 :=
  extractLsb'_extractLsb'_add w (by decide)

theorem wordFields_s (w : BitVec 24) : (wordFields w).s = w.extractLsb' 12 2 :=
  extractLsb'_extractLsb'_add w (by decide)

theorem wordFields_k (w : BitVec 24) : (wordFields w).k = w.extractLsb' 0 8 := rfl

theorem wordFields_a12 (w : BitVec 24) : (wordFields w).a12 = w.extractLsb' 0 12 := by
  apply BitVec.eq_of_toNat_eq
  rw [wordFields, decodeFields_a12_toNat]
  simp only [toNat_extractLsb'_eq_div_mod]
  omega

/-! ### Agreement under a mask -/

/-- Words that agree under a mask agree under any mask within it. -/
theorem and_eq_and_of_subset {n : Nat} {w w' mask bits : BitVec n}
    (h : w &&& mask = w' &&& mask) (hsub : mask &&& bits = bits) : w &&& bits = w' &&& bits := by
  rw [← hsub, ← BitVec.and_assoc, h, BitVec.and_assoc]

/-- Words that agree under a mask agree in every field that the mask has all bits of. -/
theorem extractLsb'_eq_of_and_eq {n : Nat} {w w' mask : BitVec n} {start len : Nat}
    (h : w &&& mask = w' &&& mask) (hall : mask.extractLsb' start len = BitVec.allOnes len) :
    w.extractLsb' start len = w'.extractLsb' start len := by
  have hfield := congrArg (BitVec.extractLsb' start len) h
  simpa only [BitVec.extractLsb'_and, hall, BitVec.and_allOnes] using hfield

theorem getLsbD_eq_of_and_eq {n : Nat} {w w' mask : BitVec n} {i : Nat}
    (h : w &&& mask = w' &&& mask) (hset : mask.getLsbD i = true) : w.getLsbD i = w'.getLsbD i := by
  have hbit := congrArg (BitVec.getLsbD · i) h
  simpa only [BitVec.getLsbD_and, hset, Bool.and_true] using hbit

/-- Agreement under a union is agreement under both masks. -/
theorem and_or_eq_and_or_iff {n : Nat} {w w' a b : BitVec n} :
    w &&& (a ||| b) = w' &&& (a ||| b) ↔ w &&& a = w' &&& a ∧ w &&& b = w' &&& b := by
  constructor
  case mp =>
    intro h
    exact ⟨and_eq_and_of_subset h (by ext; simp +contextual),
      and_eq_and_of_subset h (by ext; simp +contextual)⟩
  case mpr =>
    rintro ⟨ha, hb⟩
    rw [BitVec.and_or_distrib_left, BitVec.and_or_distrib_left, ha, hb]

/-! ### The bits a row of the table reads -/

/-- The bits of the immediate of a width: K, or A12. -/
def immediateMask : Width → BitVec 24
  | .data => 0x0000FF#24
  | .address => 0x000FFF#24

/-- The bits that the resolver reads for a field of this mode, when its register field lies at
`selMask` and the mode bit is `m`. -/
def fieldMask (selMask : BitVec 24) (width : Width) (m : Bool) : FieldMode → BitVec 24
  | .none => 0#24
  | .registerOnly => selMask
  | .immediateOnly => immediateMask width
  | .registerOrImmediate => 0x800000#24 ||| if m then selMask else immediateMask width

theorem immediateOf_eq_of_and_eq {width : Width} {w w' : BitVec 24}
    (h : w &&& immediateMask width = w' &&& immediateMask width) :
    immediateOf width (wordFields w) = immediateOf width (wordFields w') := by
  cases width with
  | data =>
    have hk : w.extractLsb' 0 8 = w'.extractLsb' 0 8 := extractLsb'_eq_of_and_eq h rfl
    simp only [immediateOf, wordFields_k, hk]
  | address =>
    have ha : w.extractLsb' 0 12 = w'.extractLsb' 0 12 := extractLsb'_eq_of_and_eq h rfl
    simp only [immediateOf, wordFields_a12, ha]

/-- The resolver gives the same operand for words that agree in the bits it reads. -/
theorem resolve_eq_of_and_eq {mode : FieldMode} {width : Width} {w w' selMask : BitVec 24}
    {pos : Nat} (hsel : selMask.extractLsb' pos 2 = BitVec.allOnes 2)
    (h : w &&& fieldMask selMask width (wordFields w).m mode =
      w' &&& fieldMask selMask width (wordFields w).m mode) :
    resolve mode (w.extractLsb' pos 2) width (wordFields w) =
      resolve mode (w'.extractLsb' pos 2) width (wordFields w') := by
  cases mode with
  | none => rfl
  | registerOnly => simp only [resolve, extractLsb'_eq_of_and_eq h hsel]
  | immediateOnly => simp only [resolve, immediateOf_eq_of_and_eq h]
  | registerOrImmediate =>
    obtain ⟨hmode, hfield⟩ := and_or_eq_and_or_iff.mp h
    have hm : (wordFields w).m = (wordFields w').m := by
      rw [wordFields_m, wordFields_m]
      exact getLsbD_eq_of_and_eq hmode rfl
    simp only [resolve, regOrImm, ← hm]
    split at hfield
    case isTrue htrue => rw [if_pos htrue, if_pos htrue, extractLsb'_eq_of_and_eq hfield hsel]
    case isFalse hfalse => rw [if_neg hfalse, if_neg hfalse, immediateOf_eq_of_and_eq hfield]

/-- The bits that both operand fields of a row read, under the mode bit `m`. -/
def rowMask (desc : Descriptor) (m : Bool) : BitVec 24 :=
  fieldMask 0x00C000#24 desc.width m desc.destMode |||
    fieldMask 0x003000#24 desc.width m desc.srcMode

/-- Words that agree in the bits their row reads decode to the same instruction. -/
theorem decodeInstr_eq_of_row {desc : Descriptor} (hrow : desc ∈ descriptors) {f f' : Fields}
    (hop : desc.op = f.op) (hop' : desc.op = f'.op)
    (hdest : resolve desc.destMode f.d desc.width f = resolve desc.destMode f'.d desc.width f')
    (hsrc : resolve desc.srcMode f.s desc.width f = resolve desc.srcMode f'.s desc.width f') :
    decodeInstr f = decodeInstr f' := by
  obtain ⟨op, m, d, s, k, a12⟩ := f
  obtain ⟨op', m', d', s', k', a12'⟩ := f'
  obtain rfl : desc.op = op := hop
  obtain rfl : desc.op = op' := hop'
  fin_cases hrow <;> simp_all [resolve, decodeInstr, immediateOf]

theorem decodeInstr_eq_of_rowMask {desc : Descriptor} (hrow : desc ∈ descriptors)
    {w w' : BitVec 24} (hop : desc.op = (wordFields w).op) (hop' : desc.op = (wordFields w').op)
    (h : w &&& rowMask desc (wordFields w).m = w' &&& rowMask desc (wordFields w).m) :
    decodeInstr (wordFields w) = decodeInstr (wordFields w') := by
  obtain ⟨hdest, hsrc⟩ := and_or_eq_and_or_iff.mp h
  refine decodeInstr_eq_of_row hrow hop hop' ?dest ?src
  case dest =>
    rw [wordFields_d, wordFields_d]
    exact resolve_eq_of_and_eq rfl hdest
  case src =>
    rw [wordFields_s, wordFields_s]
    exact resolve_eq_of_and_eq rfl hsrc

/-! ### The table of used bits -/

/-- Every word uses its opcode. -/
theorem usedBits_op (op : Opcode) (m : Bool) :
    (usedBits op m).extractLsb' 16 7 = BitVec.allOnes 7 := by
  revert op m
  decide

/-- The table of R82 covers what each row reads, but for STI with M = 1, which halts before it uses
its source register. -/
theorem rowMask_subset_usedBits : ∀ desc ∈ descriptors, ∀ m : Bool,
    ¬(desc.op = 0x03#7 ∧ m = true) → usedBits desc.op m &&& rowMask desc m = rowMask desc m := by
  decide

/-- A word runs by what its fields decode to. -/
theorem runWord24_eq_of_decodeInstr_eq {w w' : BitVec 24}
    (h : decodeInstr (wordFields w) = decodeInstr (wordFields w')) (s : State) :
    runWord24 w s = runWord24 w' s := by
  rw [runWord24, runWord24, runWord, runWord, decode, decode, ← wordFields, ← wordFields, h]

/-- A word of STI with M = 1 halts, whatever its other bits. -/
theorem runWord24_of_sti_register {w : BitVec 24} (hop : (wordFields w).op = 0x03#7)
    (hm : (wordFields w).m = true) (s : State) :
    runWord24 w s = .next (s.halt .illegalRuntimeAddressingMode 0x03#7 s.ia) := by
  have hdec : decodeInstr (wordFields w) =
      .instr (.sti (regOfBits (wordFields w).d) (.reg (regOfBits (wordFields w).s))) := by
    rw [decodeInstr, hop, regOrImm, hm]
    rfl
  rw [runWord24, runWord, decode, ← wordFields, hdec]
  rfl

/-- Settles O9. The opcode is used, so both words have the same row or none; a row reads only bits
that the table covers, except for STI with M = 1, where both words halt alike. -/
theorem ignoredBitsNeverMatter : Obligations.IgnoredBitsNeverMatter := by
  unfold Obligations.IgnoredBitsNeverMatter
  intro w w' s h
  rw [← wordFields_op, ← wordFields_m] at h
  have hop : (wordFields w).op = (wordFields w').op := by
    rw [wordFields_op, wordFields_op]
    exact extractLsb'_eq_of_and_eq h (usedBits_op _ _)
  cases hrow : descriptorOf (wordFields w).op with
  | none =>
    have hundef : 0x17 ≤ (wordFields w).op.toNat := (descriptorOf_eq_none_iff _).mp hrow
    apply runWord24_eq_of_decodeInstr_eq
    rw [decodeInstr_of_op_undefined hundef, decodeInstr_of_op_undefined (hop ▸ hundef), hop]
  | some desc =>
    obtain ⟨hmem, hdesc⟩ := mem_descriptors_of_descriptorOf hrow
    by_cases hsti : desc.op = 0x03#7 ∧ (wordFields w).m = true
    case pos =>
      obtain ⟨hop3, hm⟩ := hsti
      have hm' : (wordFields w').m = true := by
        rw [← hdesc, hop3, hm] at h
        rw [← hm, wordFields_m, wordFields_m]
        exact (getLsbD_eq_of_and_eq h rfl).symm
      have hw : (wordFields w).op = 0x03#7 := hdesc.symm.trans hop3
      rw [runWord24_of_sti_register hw hm, runWord24_of_sti_register (hop.symm.trans hw) hm']
    case neg =>
      have hsub := rowMask_subset_usedBits desc hmem _ hsti
      exact runWord24_eq_of_decodeInstr_eq (decodeInstr_eq_of_rowMask hmem hdesc (hdesc.trans hop)
        (and_eq_and_of_subset (hdesc ▸ h) hsub)) s

end Sys2Proof.Machine
end

section
/-! PROOFS. What an instruction and a step can do (spec/40_engine.md R110 to R114): one inversion
lemma each, in terms of the shared operations, so that no invariant walks through `exec` or `step`
again. -/

namespace Sys2Proof.Machine

/-! ### One instruction -/

/-- What the instruction can do to the state after its fetch; `exec_effect` ties it to `exec`. Where
invariants do not tell apart the instructions of a kind, the mnemonics name the kind. -/
inductive ExecEffect (s : State) : Instr → State → Prop where
  | hlt : ExecEffect s .hlt (s.halt .hlt 0x00#7 s.ia)
  | stiRegister (d r : Reg) :
      ExecEffect s (.sti d (.reg r)) (s.halt .illegalRuntimeAddressingMode 0x03#7 s.ia)
  | load {i : Instr} (d : Reg) (v : Byte) (hi : i.mnemonic ∈ ["LDR", "LDM"]) :
      ExecEffect s i (s.setReg d v)
  | store {i : Instr} (a : Addr) (v : Byte) (hi : i.mnemonic ∈ ["STI", "STR"]) :
      ExecEffect s i (s.writeByte a v)
  | arith {i : Instr} (d : Reg) (n : Int) (hi : i.mnemonic ∈ ["ADD", "SUB"]) :
      ExecEffect s i ((s.updateFlags n).setReg d (truncByte n))
  | compare {i : Instr} (n : Int) (hi : i.mnemonic = "CMP") : ExecEffect s i (s.updateFlags n)
  | jump {i : Instr} (a : Addr)
      (hi : i.mnemonic ∈ ["JZ", "JNZ", "JN", "JNN", "JC", "JNC", "JBE", "JA", "JMP"]) :
      ExecEffect s i (s.setPc a)
  | push (o : Operand) : ExecEffect s (.push o) (s.push8 (s.operandValue o))
  | pop (d : Reg) : ExecEffect s (.pop d) (s.popState.setReg d s.popValue)
  | call (a : Addr) : ExecEffect s (.call a) (s.pushPc.setPc a)
  | ret : ExecEffect s .ret s.popPc
  | inPort (d : Reg) (o : Operand) : ExecEffect s (.inPort d o)
      ((s.ioIn (s.operandValue o)).setReg d (s.ioInValue (s.operandValue o)))
  | outPort (o : Operand) (r : Reg) :
      ExecEffect s (.outPort o r) (s.ioOut (s.operandValue o) (s.reg r))

/-- A jump, taken or not, is a write of `pc`. -/
theorem State.jumpIf_eq_setPc (s : State) (cond : Bool) (a : Addr) :
    s.jumpIf cond a = s.setPc (if cond then a else s.pc) :=
  s.jumpIf_eq cond a

theorem ExecEffect.jumpIf {i : Instr} {s : State} (cond : Bool) (a : Addr)
    (hi : i.mnemonic ∈ ["JZ", "JNZ", "JN", "JNN", "JC", "JNC", "JBE", "JA", "JMP"]) :
    ExecEffect s i (s.jumpIf cond a) := by
  rw [State.jumpIf_eq_setPc]
  exact .jump _ hi

/-- Everything an instruction that answers a next state can have done. -/
theorem exec_effect {i : Instr} {s t : State} (h : exec i s = .next t) : ExecEffect s i t := by
  cases i with
  | hlt => cases h; exact .hlt
  | ldr d src => cases h; exact .load d _ (by simp [Instr.mnemonic])
  | ldm d src => cases h; exact .load d _ (by simp [Instr.mnemonic])
  | sti d src =>
    cases src with
    | reg r => cases h; exact .stiRegister d r
    | imm v => cases h; exact .store _ _ (by simp [Instr.mnemonic])
  | str dst src => cases h; exact .store _ _ (by simp [Instr.mnemonic])
  | add d src => cases h; exact .arith d _ (by simp [Instr.mnemonic])
  | sub d src => cases h; exact .arith d _ (by simp [Instr.mnemonic])
  | cmp d src => cases h; exact .compare _ rfl
  | jz a | jnz a | jn a | jnn a | jc a | jnc a | jbe a | ja a | jmp a =>
    cases h; exact .jumpIf _ a (by simp [Instr.mnemonic])
  | push o => cases h; exact .push o
  | pop d => cases h; exact .pop d
  | call a => cases h; exact .call a
  | ret => cases h; exact .ret
  | inPort d o => cases h; exact .inPort d o
  | outPort o r => cases h; exact .outPort o r

/-- Every instruction answers a next state: none faults and none is refused. -/
theorem exec_isNext (i : Instr) (s : State) : ∃ t : State, exec i s = .next t := by
  cases i with
  | sti d src => cases src <;> exact ⟨_, rfl⟩
  | _ => exact ⟨_, rfl⟩

/-- The push of a return address changes bytes in the stack region alone. -/
theorem State.le_of_pushPc_readByte_ne (s : State) {a : Addr}
    (ha : s.pushPc.readByte a ≠ s.readByte a) : 0xF00 ≤ a.toNat := by
  have hslot : a ∈ [slotAddr s 0#8, slotAddr s 1#8] := by
    by_contra hne
    exact ha (s.pushPc_memory a hne)
  obtain ⟨p, rfl⟩ : ∃ p : Byte, a = stackAddr p := by
    obtain rfl | rfl : a = slotAddr s 0#8 ∨ a = slotAddr s 1#8 := by simpa using hslot
    · exact ⟨_, rfl⟩
    · exact ⟨_, rfl⟩
  rw [stackAddr_toNat]
  omega

namespace ExecEffect

variable {s t : State} {i : Instr}

/-- No instruction changes the parameters or the request latches. -/
theorem cfg_eq (h : ExecEffect s i t) : t.cfg = s.cfg := by
  cases h <;> rfl

theorem irqPending_eq (h : ExecEffect s i t) : t.irqPending = s.irqPending := by
  cases h <;> rfl

/-- Only HLT and STI with a register source touch the run state and the diagnostic, and they halt
with a named kind. -/
theorem halts_or_run_diag_eq (h : ExecEffect s i t) :
    (t.run = .halted ∧ t.diag.kind ≠ .none ∧ (i = .hlt ∨ ∃ d r, i = .sti d (.reg r))) ∨
      (t.run = s.run ∧ t.diag = s.diag) := by
  cases h with
  | hlt => exact .inl ⟨rfl, by simp, .inl rfl⟩
  | stiRegister d r => exact .inl ⟨rfl, by simp, .inr ⟨d, r, rfl⟩⟩
  | _ => exact .inr ⟨rfl, rfl⟩

/-- The flags stay as they are, or an ALU instruction computes them from an exact result. -/
theorem flags_eq_or_alu (h : ExecEffect s i t) :
    t.flags = s.flags ∨ i.mnemonic ∈ ["ADD", "SUB", "CMP"] ∧
      ∃ n, t.flags = updateFlags s.cfg.updateFlagsClearsI n s.flags := by
  cases h with
  | arith d n hi => exact .inr ⟨List.mem_append_left ["CMP"] hi, n, rfl⟩
  | compare n hi => exact .inr ⟨by simp [hi], n, rfl⟩
  | _ => exact .inl rfl

theorem sp_eq_or_stack (h : ExecEffect s i t) :
    t.sp = s.sp ∨ i.mnemonic ∈ ["PUSH", "POP", "CALL", "RET"] := by
  cases h with
  | push _ | pop _ | call _ | ret => exact .inr (by simp [Instr.mnemonic])
  | _ => exact .inl rfl

/-- The instructions that write memory; those of the stack write in the stack region alone. -/
theorem readByte_ne (h : ExecEffect s i t) {a : Addr} (ha : t.readByte a ≠ s.readByte a) :
    i.mnemonic ∈ ["STI", "STR"] ∨ i.mnemonic ∈ ["PUSH", "CALL"] ∧ 0xF00 ≤ a.toNat := by
  cases h with
  | store b v hi => exact .inl hi
  | push o =>
    obtain rfl : a = stackAddr s.sp := by
      by_contra hne
      exact ha (State.push8_readByte_of_ne _ hne)
    exact .inr ⟨by simp [Instr.mnemonic], by rw [stackAddr_toNat]; omega⟩
  | call b => exact .inr ⟨by simp [Instr.mnemonic], s.le_of_pushPc_readByte_ne ha⟩
  | _ => exact absurd rfl ha

/-- Every instruction keeps the memory in canonical form: it writes through the byte write alone. -/
theorem mem_wf (h : ExecEffect s i t) (hwf : s.mem.wf = true) : t.mem.wf = true := by
  cases h with
  | store a v _ => exact State.writeByte_wf a v hwf
  | push o => exact State.push8_wf _ hwf
  | call a => exact State.pushPc_wf hwf
  | _ => exact hwf

/-- Only IN and OUT touch the record of port transactions, by one event, and they leave memory
alone. -/
theorem ports (h : ExecEffect s i t) :
    (t.events = s.events ∧ t.draws = s.draws) ∨
      (∃ (d : Reg) (o : Operand) (p v : Byte), i = .inPort d o ∧
        t.events = s.events ++ [.input p v] ∧ SameMemoryExcept [] s t) ∨
      (∃ (o : Operand) (r : Reg) (p v : Byte), i = .outPort o r ∧
        t.events = s.events ++ [.output p v] ∧ SameMemoryExcept [] s t) := by
  cases h with
  | inPort d o => exact .inr (.inl ⟨d, o, _, _, rfl, rfl, fun _ _ => rfl⟩)
  | outPort o r => exact .inr (.inr ⟨o, r, _, _, rfl, rfl, fun _ _ => rfl⟩)
  | _ => exact .inl ⟨rfl, rfl⟩

end ExecEffect

/-! ### One step -/

/-- The state after the fetch of a step that takes no trap (spec/40_engine.md R111). -/
def State.fetched (s : State) : State := s.sampleMasked.latchFetch

/-- The fetch touches `ia`, `pc` and the interrupt latch alone. -/
theorem State.fetched_eq (s : State) : s.fetched = { s with
    ia := s.pc
    pc := advancePc s.cfg.pcWrap s.pc
    irqPending := s.irqPending && (s.flags.i || decide (s.cfg.irqMasked = .hold)) } := by
  rw [State.fetched, State.sampleMasked_eq]
  rfl

@[simp] theorem State.fetched_sp (s : State) : s.fetched.sp = s.sp := by rw [fetched_eq]
@[simp] theorem State.fetched_flags (s : State) : s.fetched.flags = s.flags := by rw [fetched_eq]
@[simp] theorem State.fetched_run (s : State) : s.fetched.run = s.run := by rw [fetched_eq]
@[simp] theorem State.fetched_mem (s : State) : s.fetched.mem = s.mem := by rw [fetched_eq]
@[simp] theorem State.fetched_diag (s : State) : s.fetched.diag = s.diag := by rw [fetched_eq]
@[simp] theorem State.fetched_cfg (s : State) : s.fetched.cfg = s.cfg := by rw [fetched_eq]
@[simp] theorem State.fetched_events (s : State) : s.fetched.events = s.events := by rw [fetched_eq]
@[simp] theorem State.fetched_draws (s : State) : s.fetched.draws = s.draws := by rw [fetched_eq]
@[simp] theorem State.fetched_readByte (s : State) (a : Addr) :
    s.fetched.readByte a = s.readByte a := by rw [fetched_eq]; rfl

/-- What a step can do; `step_effect` ties it to `step`. A trap entry starts from `s` with its
latches written, an instruction or the Error handler from the state after the fetch. -/
inductive StepEffect (s : State) : State → Prop where
  | trap (hdue : TrapDue s) (irq sys : Bool) (v : Addr) :
      StepEffect s (((s.setIrqPending irq).setSysPending sys).trapEntry v)
  | instr (hdue : ¬TrapDue s) {i : Instr} {t : State} (hword : wordAt s = .instr i)
      (heff : ExecEffect s.fetched i t) : StepEffect s t
  | illegal (hdue : ¬TrapDue s) {op : Opcode} (hword : wordAt s = .illegalOpcode op) :
      StepEffect s (s.fetched.halt .illegalOpcode op s.pc)

theorem run_of_step {s t : State} (h : step s = .next t) : s.run = .running :=
  (step_cases h).1

theorem step_effect {s t : State} (h : step s = .next t) : StepEffect s t := by
  obtain ⟨-, ⟨hs, rfl⟩ | ⟨-, hi, rfl⟩ | ⟨hs, hi, hrun⟩⟩ := step_cases h
  · exact .trap ((trapDue_iff s).mpr (.inl hs)) s.irqPending false _
  · exact .trap ((trapDue_iff s).mpr (.inr hi)) false s.sysPending _
  · have hdue : ¬TrapDue s := by simp [trapDue_iff, hs, hi]
    obtain ⟨i, hword, hexec⟩ | ⟨op, hword, rfl⟩ := hrun
    · exact .instr hdue hword (exec_effect hexec)
    · exact .illegal hdue hword

end Sys2Proof.Machine
end

section
/-! PROOFS. What every step keeps: canonical memory, the diagnostic, the flags, the parameters. -/

namespace Sys2Proof.Machine

/-- Settles O22: an instruction writes memory through the byte write, a trap entry through the push
of `pc`, and the fetch leaves it alone. -/
theorem stepKeepsMemoryCanonical : Obligations.StepKeepsMemoryCanonical := by
  unfold Obligations.StepKeepsMemoryCanonical
  intro s t hwf h
  cases step_effect h with
  | trap _ irq sys v => exact State.trapEntry_wf v hwf
  | instr _ _ heff => exact heff.mem_wf (by rwa [State.fetched_mem])
  | illegal _ _ => rwa [State.halt_mem, State.fetched_mem]

theorem diagMatchesRun_of_halted {t : State} (hrun : t.run = .halted)
    (hkind : t.diag.kind ≠ .none) : DiagMatchesRun t := by
  simp [DiagMatchesRun, hrun, hkind]

theorem diagMatchesRun_congr {s t : State} (hrun : t.run = s.run) (hdiag : t.diag = s.diag) :
    DiagMatchesRun t ↔ DiagMatchesRun s := by
  rw [DiagMatchesRun, DiagMatchesRun, hrun, hdiag]

/-- Settles O23: a step that halts names its kind, and any other one writes neither `run` nor
`diag`. -/
theorem stepKeepsDiagMatchingRun : Obligations.StepKeepsDiagMatchingRun := by
  unfold Obligations.StepKeepsDiagMatchingRun
  intro s t hdiag h
  cases step_effect h with
  | trap _ irq sys v => exact hdiag
  | instr _ _ heff =>
    obtain ⟨hrun, hkind, -⟩ | ⟨hrun, hsame⟩ := heff.halts_or_run_diag_eq
    · exact diagMatchesRun_of_halted hrun hkind
    · exact (diagMatchesRun_congr (by simpa using hrun) (by simpa using hsame)).mpr hdiag
  | illegal _ _ => exact diagMatchesRun_of_halted rfl (by simp)

/-- A trap entry keeps Z, C and N, and I unless `ENTRY_CLEARS_I`. -/
theorem entryFlags_eq (clearsI : Bool) (f : Flags) :
    entryFlags clearsI f = { f with i := f.i && !clearsI } := by
  cases clearsI <;> simp [entryFlags]

@[simp] theorem State.trapEntry_flags (s : State) (v : Addr) :
    (s.trapEntry v).flags = entryFlags s.cfg.entryClearsI s.flags := rfl

/-- Settles O24: ALU flags are exclusive by the exact result, a trap entry touches I alone, and no
other step writes a flag. -/
theorem stepKeepsFlagsExclusive : Obligations.StepKeepsFlagsExclusive := by
  unfold Obligations.StepKeepsFlagsExclusive
  intro s t hexcl h
  cases step_effect h with
  | trap _ irq sys v =>
    rw [State.trapEntry_flags, entryFlags_eq]
    exact hexcl
  | instr _ _ heff =>
    obtain hsame | ⟨-, n, halu⟩ := heff.flags_eq_or_alu
    · rwa [hsame, State.fetched_flags]
    · rw [halu]
      exact updateFlags_exclusive _ n _
  | illegal _ _ => rwa [State.halt_flags, State.fetched_flags]

theorem step_cfg_eq {s t : State} (h : step s = .next t) : t.cfg = s.cfg := by
  cases step_effect h with
  | trap _ irq sys v => rfl
  | instr _ _ heff => rw [heff.cfg_eq, State.fetched_cfg]
  | illegal _ _ => rw [State.halt_cfg, State.fetched_cfg]

/-- What a step can do to I: keep it, or clear it under one of the two parameters. -/
theorem step_enable_eq {s t : State} (h : step s = .next t) :
    t.flags.i = s.flags.i ∨ t.flags.i = (s.flags.i && !s.cfg.entryClearsI) ∨
      t.flags.i = (s.flags.i && !s.cfg.updateFlagsClearsI) := by
  cases step_effect h with
  | trap _ irq sys v =>
    rw [State.trapEntry_flags, entryFlags_eq]
    exact .inr (.inl rfl)
  | instr _ _ heff =>
    obtain hsame | ⟨-, n, halu⟩ := heff.flags_eq_or_alu
    · exact .inl (by rw [hsame, State.fetched_flags])
    · exact .inr (.inr (by rw [halu, updateFlags, State.fetched_flags, State.fetched_cfg]))
  | illegal _ _ => exact .inl (by rw [State.halt_flags, State.fetched_flags])

/-- Settles O25 from `step_cfg_eq` and `step_enable_eq`. -/
theorem stepKeepsParametersAndEnable : Obligations.StepKeepsParametersAndEnable := by
  unfold Obligations.StepKeepsParametersAndEnable
  intro s t h
  refine ⟨step_cfg_eq h, fun hupdate hentry => ?kept, fun hset => ?notSet⟩
  case kept =>
    simpa [hupdate, hentry] using step_enable_eq h
  case notSet =>
    obtain hi | hi | hi := step_enable_eq h <;> rw [hi] at hset
    · exact hset
    · exact (Bool.and_eq_true_iff.mp hset).1
    · exact (Bool.and_eq_true_iff.mp hset).1

end Sys2Proof.Machine
end

section
/-! PROOFS. Who changes what: which instructions and trap entries can halt the machine, write a
flag, move `sp`, write memory or reach a port. -/

namespace Sys2Proof.Machine

/-- Settles O13: a halted next state comes from the Error handler or from an instruction that halts;
a trap entry leaves the machine running. -/
theorem onlyThreeWaysToHalt : Obligations.OnlyThreeWaysToHalt := by
  unfold Obligations.OnlyThreeWaysToHalt
  intro s t h hhalted
  have hrun := run_of_step h
  cases step_effect h with
  | trap _ irq sys v => exact absurd (hrun.symm.trans hhalted) (by decide)
  | instr hdue hword heff =>
    obtain ⟨-, -, rfl | ⟨d, r, rfl⟩⟩ | ⟨hsame, -⟩ := heff.halts_or_run_diag_eq
    · exact ⟨hdue, .inl hword⟩
    · exact ⟨hdue, .inr (.inl ⟨d, r, hword⟩)⟩
    · rw [hsame, State.fetched_run, hrun] at hhalted
      cases hhalted
  | illegal hdue hword => exact ⟨hdue, .inr (.inr ⟨_, hword⟩)⟩

/-- Settles O29 by the flags clause of the effect of an instruction. -/
theorem onlyAluWritesFlags : Obligations.OnlyAluWritesFlags := by
  unfold Obligations.OnlyAluWritesFlags
  intro i s t hi h
  exact (exec_effect h).flags_eq_or_alu.resolve_right fun halu => hi halu.1

/-- Settles O30: the fetch and the Error handler leave `sp` alone, and of the instructions those of
the stack alone write it. -/
theorem onlyStackOperationsMoveSp : Obligations.OnlyStackOperationsMoveSp := by
  unfold Obligations.OnlyStackOperationsMoveSp
  intro s t h hsp
  cases step_effect h with
  | trap hdue irq sys v => exact .inl hdue
  | instr hdue hword heff =>
    refine .inr ⟨_, hword, heff.sp_eq_or_stack.resolve_left ?_⟩
    rwa [State.fetched_sp]
  | illegal hdue hword => exact absurd s.fetched_sp hsp

/-- The writers of a byte that a step changed: the stores anywhere, the stack writers and a trap
entry in the stack region. -/
theorem step_readByte_ne {s t : State} (h : step s = .next t) {a : Addr}
    (ha : t.readByte a ≠ s.readByte a) :
    (∃ i, wordAt s = .instr i ∧ i.mnemonic ∈ ["STI", "STR"]) ∨
      0xF00 ≤ a.toNat ∧
        (TrapDue s ∨ ∃ i, wordAt s = .instr i ∧ i.mnemonic ∈ ["PUSH", "CALL"]) := by
  cases step_effect h with
  | trap hdue irq sys v =>
    exact .inr ⟨((s.setIrqPending irq).setSysPending sys).le_of_pushPc_readByte_ne ha, .inl hdue⟩
  | instr hdue hword heff =>
    obtain hstore | ⟨hpush, hle⟩ := heff.readByte_ne (a := a) (by rwa [State.fetched_readByte])
    · exact .inl ⟨_, hword, hstore⟩
    · exact .inr ⟨hle, .inr ⟨_, hword, hpush⟩⟩
  | illegal hdue hword => exact absurd (s.fetched_readByte a) ha

/-- Settles O31 from `step_readByte_ne`: below 0xF00 only the stores are left. -/
theorem onlyStoresWriteMemory : Obligations.OnlyStoresWriteMemory := by
  unfold Obligations.OnlyStoresWriteMemory
  intro s t h
  refine ⟨fun a ha hlow => ?low, fun a ha => ?anywhere⟩
  case low =>
    exact (step_readByte_ne h ha).resolve_right fun hstack => absurd hstack.1 (by omega)
  case anywhere =>
    obtain ⟨i, hword, hi⟩ | ⟨-, hdue | ⟨i, hword, hi⟩⟩ := step_readByte_ne h ha
    · exact .inr ⟨i, hword, List.mem_append_left ["PUSH", "CALL"] hi⟩
    · exact .inl hdue
    · exact .inr ⟨i, hword, List.mem_append_right ["STI", "STR"] hi⟩

/-- The fetch changes no byte, so what a later state kept since the fetch it kept since the step. -/
theorem SameMemoryExcept.of_fetched {stored : List Addr} {s t : State}
    (h : SameMemoryExcept stored s.fetched t) : SameMemoryExcept stored s t := by
  intro a ha
  rw [h a ha, State.fetched_readByte]

/-- Settles O32: only IN and OUT have an effect on the ports, each of one event. -/
theorem onlyInAndOutReachPorts : Obligations.OnlyInAndOutReachPorts := by
  unfold Obligations.OnlyInAndOutReachPorts
  intro s t h
  cases step_effect h with
  | trap hdue irq sys v => exact .inl ⟨rfl, rfl⟩
  | instr hdue hword heff =>
    have hports := heff.ports
    rw [State.fetched_events, State.fetched_draws] at hports
    obtain hnone | ⟨d, o, p, v, rfl, hevents, hmem⟩ | ⟨o, r, p, v, rfl, hevents, hmem⟩ := hports
    · exact .inl hnone
    · exact .inr (.inl ⟨d, o, p, v, hword, hevents, hmem.of_fetched⟩)
    · exact .inr (.inr ⟨o, r, p, v, hword, hevents, hmem.of_fetched⟩)
  | illegal hdue hword => exact .inl ⟨s.fetched_events, s.fetched_draws⟩

end Sys2Proof.Machine
end

section
/-! PROOFS. The step (spec/40_engine.md R110 to R117): when it has a next state, and what it runs
when it takes no request. -/

namespace Sys2Proof.Machine

/-- At a boundary that takes no request, a masked interrupt request is dropped or held. -/
theorem State.sampled_irqPending {s : State} (hdue : ¬TrapDue s) :
    (s.irqPending && (s.flags.i || decide (s.cfg.irqMasked = .hold))) =
      (s.irqPending && decide (s.cfg.irqMasked = .hold)) := by
  have hmasked : (s.irqPending && s.flags.i) = false :=
    Bool.eq_false_iff.mpr fun htakes => hdue ((trapDue_iff s).mpr (.inr htakes))
  rw [Bool.and_or_distrib_left, hmasked, Bool.false_or]

/-- The state after the fetch, at a boundary that takes no request. -/
theorem State.fetched_of_not_trapDue {s : State} (hdue : ¬TrapDue s) : s.fetched = { s with
    ia := s.pc
    pc := BitVec.ofNat 12 ((s.pc.toNat + 3) % s.cfg.pcWrap.modulus)
    irqPending := s.irqPending && decide (s.cfg.irqMasked = .hold) } := by
  rw [State.fetched_eq, State.sampled_irqPending hdue]
  rfl

/-- Settles O10: `step` runs the word at `pc` on the state after the fetch, and its decoded
instruction is what `runWord` runs. -/
theorem stepRunsDecodedInstruction : Obligations.StepRunsDecodedInstruction := by
  unfold Obligations.StepRunsDecodedInstruction
  intro s i hrun hdue hdec _
  rw [step_of_not_trapDue hrun hdue, runWord, hdec, ← State.fetched_of_not_trapDue hdue]
  rfl

/-- Settles O11: the word is sent to the Error handler, which halts with the op and the `ia` that
the fetch latched. -/
theorem stepHaltsOnUndefinedOpcode : Obligations.StepHaltsOnUndefinedOpcode := by
  unfold Obligations.StepHaltsOnUndefinedOpcode
  intro s hrun hdue hop
  have hdec : decode (s.readByte s.pc) (s.readByte (s.pc + 1#12)) (s.readByte (s.pc + 2#12)) =
      .illegalOpcode ((s.readByte s.pc).extractLsb' 0 7) :=
    decodeInstr_of_op_undefined (by rwa [decodeFields_op_toNat])
  refine ⟨s.fetched.halt .illegalOpcode ((s.readByte s.pc).extractLsb' 0 7) s.fetched.ia, ?_, ?_⟩
  · rw [step_of_not_trapDue hrun hdue, runWord, hdec]
    rfl
  · rw [State.fetched_of_not_trapDue hdue]
    exact State.halt_haltedWith _ _ _ _

/-- Every word answers a next state: its instruction does, or the Error handler. -/
theorem runWord_isNext (b0 b1 b2 : Byte) (s : State) :
    ∃ t : State, runWord b0 b1 b2 s = .next t := by
  unfold runWord
  split
  · exact exec_isNext _ s
  · exact ⟨_, rfl⟩

theorem step_isNext {s : State} (hrun : s.run = .running) : ∃ t : State, step s = .next t := by
  by_cases hdue : TrapDue s
  case neg =>
    rw [step_of_not_trapDue hrun hdue]
    exact runWord_isNext _ _ _ _
  case pos =>
    cases hsys : s.takesSyscall with
    | true => exact ⟨_, step_of_takesSyscall hrun hsys⟩
    | false =>
      have hirq : s.takesInterrupt = true := by simpa [trapDue_iff, hsys] using hdue
      exact ⟨_, step_of_takesInterrupt hrun hsys hirq⟩

theorem step_of_halted {s : State} (hrun : s.run = .halted) : step s = .fault .halted := by
  rw [step, State.engineStep, hrun]

/-- Settles O12 from `step_isNext` and `step_of_halted`. -/
theorem runningStepsAndHaltedDoesNot : Obligations.RunningStepsAndHaltedDoesNot := by
  unfold Obligations.RunningStepsAndHaltedDoesNot
  exact ⟨fun _ => step_isNext, fun _ => step_of_halted⟩

/-- Settles O16: after the fetch the latch is as the policy has it, and neither an instruction nor
the Error handler writes it. -/
theorem maskedInterruptDroppedOrHeld : Obligations.MaskedInterruptDroppedOrHeld := by
  unfold Obligations.MaskedInterruptDroppedOrHeld
  intro s t hirq hmask hdue h
  have hfetched : s.fetched.irqPending = true ↔ s.cfg.irqMasked = .hold := by
    rw [State.fetched_of_not_trapDue hdue]
    simp [hirq]
  cases step_effect h with
  | trap htrap irq sys v => exact absurd htrap hdue
  | instr _ _ heff => rwa [heff.irqPending_eq]
  | illegal _ _ => exact hfetched

end Sys2Proof.Machine
end

section
/-! PROOFS. Trap entry (spec/60_exceptions.md R225 to R229): which request a boundary takes, and
what its entry does. -/

namespace Sys2Proof.Machine

/-- What a trap entry does is said without the request latches, so writing them first changes none
of it. -/
theorem TrapEntered.of_latches {v : Addr} {s t : State} {irq sys : Bool}
    (h : TrapEntered v ((s.setIrqPending irq).setSysPending sys) t) : TrapEntered v s t where
  pushed := ⟨h.pushed.low, h.pushed.high, h.pushed.sp⟩
  memory := h.memory
  littlePc := h.littlePc
  bigPc := h.bigPc
  zeroFlag := h.zeroFlag
  carryFlag := h.carryFlag
  negativeFlag := h.negativeFlag
  enableFlag := h.enableFlag
  regs := h.regs
  run := h.run
  diag := h.diag
  ia := h.ia
  cfg := h.cfg
  ports := ⟨h.ports.events, h.ports.draws⟩

/-- The state after entering the trap at `v` with the latches left as given. -/
def State.enterTrap (irq sys : Bool) (v : Addr) (s : State) : State :=
  ((s.setIrqPending irq).setSysPending sys).trapEntry v

theorem State.enterTrap_trapEntered {s : State} (irq sys : Bool) (v : Addr)
    (hwf : s.mem.wf = true) : TrapEntered v s (s.enterTrap irq sys v) :=
  TrapEntered.of_latches (State.trapEntry_trapEntered (s := (s.setIrqPending irq).setSysPending sys)
    v hwf)

/-- A boundary takes a pending syscall request that I does not mask; the interrupt latch stays. -/
theorem step_syscall {s : State} (hrun : s.run = .running) (hsys : s.sysPending = true)
    (hmask : s.cfg.syscallMaskedByI = true → s.flags.i = true) :
    step s = .next (s.enterTrap s.irqPending false s.cfg.syscallVector) := by
  have htakes : s.takesSyscall = true := by
    cases hcfg : s.cfg.syscallMaskedByI with
    | false => simp [State.takesSyscall, hsys, hcfg]
    | true => simp [State.takesSyscall, hsys, hmask hcfg]
  exact step_of_takesSyscall hrun htakes

/-- With no syscall request pending, a boundary takes an enabled interrupt request. -/
theorem step_interrupt {s : State} (hrun : s.run = .running) (hirq : s.irqPending = true)
    (hi : s.flags.i = true) (hsys : s.sysPending = false) :
    step s = .next (s.enterTrap false s.sysPending s.cfg.intVector) := by
  refine step_of_takesInterrupt hrun ?_ ?_
  · simp [State.takesSyscall, hsys]
  · simp [State.takesInterrupt, hirq, hi]

/-- Settles O14: `step_syscall` names the next state, in which `enterTrap` set both latches. -/
theorem syscallTrapIsTakenFirst : Obligations.SyscallTrapIsTakenFirst := by
  unfold Obligations.SyscallTrapIsTakenFirst
  intro s hwf hrun hsys hmask
  exact ⟨_, step_syscall hrun hsys hmask, State.enterTrap_trapEntered _ _ _ hwf, rfl, rfl⟩

/-- Settles O15 in the same way from `step_interrupt`. -/
theorem enabledInterruptTrapIsTaken : Obligations.EnabledInterruptTrapIsTaken := by
  unfold Obligations.EnabledInterruptTrapIsTaken
  intro s hwf hrun hirq hi hsys
  exact ⟨_, step_interrupt hrun hirq hi hsys, State.enterTrap_trapEntered _ _ _ hwf, rfl, hsys⟩

/-- Settles O17: the syscall trap leaves the interrupt request pending and, as `ENTRY_CLEARS_I` is
false, enabled, so the next boundary takes it. -/
theorem bothRequestsTakeTwoSteps : Obligations.BothRequestsTakeTwoSteps := by
  unfold Obligations.BothRequestsTakeTwoSteps
  intro s hwf hrun hsys hirq hi hentry
  have hfirst := step_syscall hrun hsys fun _ => hi
  set t := s.enterTrap s.irqPending false s.cfg.syscallVector
  have htrap : TrapEntered s.cfg.syscallVector s t := State.enterTrap_trapEntered _ _ _ hwf
  have hi' : t.flags.i = true := by simp [htrap.enableFlag, hi, hentry]
  have hsecond := step_interrupt (htrap.run.trans hrun) hirq hi' rfl
  have hwf' : t.mem.wf = true := State.trapEntry_wf _ hwf
  have htrap' : TrapEntered t.cfg.intVector t (t.enterTrap false t.sysPending t.cfg.intVector) :=
    State.enterTrap_trapEntered _ _ _ hwf'
  refine ⟨t, _, hfirst, hsecond, htrap, ?vector, rfl, rfl, ?sp⟩
  case vector => rwa [htrap.cfg] at htrap' ⊢
  case sp =>
    rw [htrap'.pushed.sp, htrap.pushed.sp, BitVec.add_assoc]
    rfl

end Sys2Proof.Machine
end

section
/-! PROOFS. The stack round trips (spec/44_stack_call.md R190 to R195; spec/60_exceptions.md R231):
a pop right after a push, and a return right after a push of `pc`. -/

namespace Sys2Proof.Machine

/-- A read depends on the memory alone. -/
theorem State.readByte_congr {s t : State} (hmem : t.mem = s.mem) (a : Addr) :
    t.readByte a = s.readByte a := by
  rw [State.readByte, State.readByte, hmem]

/-- Where a push left memory and `sp`, a pop finds the pushed byte and the old `sp`. -/
theorem State.pop_of_push8 {s u : State} {v : Byte} (hwf : s.mem.wf = true)
    (hmem : u.mem = (s.push8 v).mem) (hsp : u.sp = (s.push8 v).sp) :
    u.popValue = v ∧ u.popState.sp = s.sp := by
  have hback : u.sp - 1#8 = s.sp := by rw [hsp, State.push8_sp, BitVec.add_sub_cancel]
  refine ⟨?_, hback⟩
  rw [State.popValue, hback, State.readByte_congr hmem, State.push8_readByte_self v hwf]

/-- Settles O36: POP then writes the popped byte into its register. -/
theorem popReturnsWhatPushPushed : Obligations.PopReturnsWhatPushPushed := by
  unfold Obligations.PopReturnsWhatPushPushed
  intro s t u src d hwf hpush hmem hsp
  cases hpush
  obtain ⟨hvalue, hback⟩ := State.pop_of_push8 hwf hmem hsp
  exact ⟨u.popState.setReg d u.popValue, rfl, (State.setReg_reg_self _ d _).trans hvalue, hback⟩

/-- Where a push of `pc` left memory and `sp`, a return finds the old `pc` and the old `sp`: its two
pops undo the two pushes in reverse. -/
theorem State.popPc_of_pushPc {s u : State} (hwf : s.mem.wf = true) (hmem : u.mem = s.pushPc.mem)
    (hsp : u.sp = s.pushPc.sp) : u.popPc.pc = s.pc ∧ u.popPc.sp = s.sp := by
  have hbackHigh : u.sp - 1#8 = s.sp + 1#8 := by
    rw [hsp, State.pushPc_sp, BitVec.add_sub_cancel]
  have hbackLow : u.sp - 1#8 - 1#8 = s.sp := by rw [hbackHigh, BitVec.add_sub_cancel]
  have hpushed := State.pushPc_pcPushed hwf
  have hhigh : u.readByte (stackAddr (s.sp + 1#8)) = (s.pc.extractLsb' 8 4).setWidth 8 := by
    rw [State.readByte_congr hmem, ← slotAddr_eq, hpushed.high]
  have hlow : u.readByte (stackAddr s.sp) = s.pc.extractLsb' 0 8 := by
    rw [State.readByte_congr hmem, ← BitVec.add_zero s.sp, ← slotAddr_eq, hpushed.low]
  rw [State.popPc_spec, hbackLow, hbackHigh, hhigh, hlow, addrOfBytes_pc]
  exact ⟨rfl, rfl⟩

/-- Settles O37: CALL leaves the push of the post-fetch `pc` on the stack. -/
theorem retReturnsToCaller : Obligations.RetReturnsToCaller := by
  unfold Obligations.RetReturnsToCaller
  intro s t u target hwf hcall hmem hsp
  cases hcall
  exact ⟨u.popPc, rfl, State.popPc_of_pushPc hwf hmem hsp⟩

/-- Settles O18: so does a trap entry, with the interrupted `pc`; RET writes no flag. -/
theorem retReturnsFromTrap : Obligations.RetReturnsFromTrap := by
  unfold Obligations.RetReturnsFromTrap
  intro s u v hwf hmem hsp
  obtain ⟨hpc, hback⟩ := State.popPc_of_pushPc hwf hmem hsp
  exact ⟨u.popPc, rfl, hpc, hback, rfl⟩

end Sys2Proof.Machine
end

section
/-! PROOFS. The memory (spec/20_memory.md R50, R65): its canonical form is unique, and a fetch reads
what was stored. -/

namespace Sys2Proof.Machine

/-- The byte at the head of a canonical memory is no unlisted one. -/
theorem Memory.read_head_ne {lo b : Nat} {v : Byte} {rest : Memory}
    (h : Memory.wfFrom lo ((b, v) :: rest) = true) :
    Memory.read ((b, v) :: rest) b ≠ Config.unlistedByte := by
  simpa [Memory.read] using (Memory.wfFrom_cons.mp h).2.2.1

/-- No canonical memory lists an address from 4096 on. -/
theorem Memory.read_of_le {lo a : Nat} {m : Memory} (h : Memory.wfFrom lo m = true)
    (ha : 4096 ≤ a) : m.read a = Config.unlistedByte := by
  induction m generalizing lo with
  | nil => rfl
  | cons c rest ih =>
    obtain ⟨b, v⟩ := c
    obtain ⟨-, hb, -, hrest⟩ := Memory.wfFrom_cons.mp h
    have hne : b ≠ a := by omega
    rw [Memory.read, if_neg hne, ih hrest]

/-- Of two canonical memories that read alike, the second begins no later than the first. -/
theorem Memory.head_le {lo lo' b b' : Nat} {v v' : Byte} {rest rest' : Memory}
    (h : Memory.wfFrom lo ((b, v) :: rest) = true)
    (h' : Memory.wfFrom lo' ((b', v') :: rest') = true)
    (hread : ∀ a, Memory.read ((b, v) :: rest) a = Memory.read ((b', v') :: rest') a) : b' ≤ b := by
  by_contra hlt
  obtain ⟨-, htail⟩ := Memory.wfFrom_cons.mp h'
  have hfrom : Memory.wfFrom b' ((b', v') :: rest') = true :=
    Memory.wfFrom_cons.mpr ⟨le_refl b', htail⟩
  exact Memory.read_head_ne h ((hread b).trans (Memory.read_of_lt hfrom (by omega)))

/-- Canonical memories that read alike at every number are equal, entry by entry. -/
theorem Memory.eq_of_read_eq {m m' : Memory} {lo lo' : Nat} (h : Memory.wfFrom lo m = true)
    (h' : Memory.wfFrom lo' m' = true) (hread : ∀ a, m.read a = m'.read a) : m = m' := by
  induction m generalizing m' lo lo' with
  | nil =>
    cases m' with
    | nil => rfl
    | cons c' rest' => exact absurd (hread c'.1).symm (Memory.read_head_ne h')
  | cons c rest ih =>
    obtain ⟨b, v⟩ := c
    cases m' with
    | nil => exact absurd (hread b) (Memory.read_head_ne h)
    | cons c' rest' =>
      obtain ⟨b', v'⟩ := c'
      obtain rfl : b = b' := by
        have hle := Memory.head_le h h' hread
        have hge := Memory.head_le h' h fun a => (hread a).symm
        omega
      obtain rfl : v = v' := by simpa [Memory.read] using hread b
      obtain ⟨-, -, -, hrest⟩ := Memory.wfFrom_cons.mp h
      obtain ⟨-, -, -, hrest'⟩ := Memory.wfFrom_cons.mp h'
      have htail (a : Nat) : Memory.read rest a = Memory.read rest' a := by
        by_cases hab : b = a
        · rw [Memory.read_of_lt hrest (by omega), Memory.read_of_lt hrest' (by omega)]
        · simpa [Memory.read, hab] using hread a
      rw [ih hrest hrest' htail]

/-- Settles O20: reading alike at the 4096 addresses is reading alike at every number. -/
theorem canonicalMemoriesReadAlikeAreEqual : Obligations.CanonicalMemoriesReadAlikeAreEqual := by
  unfold Obligations.CanonicalMemoriesReadAlikeAreEqual
  intro m m' h h' hread
  refine Memory.eq_of_read_eq h h' fun a => ?_
  by_cases ha : a < 4096
  · have haddr : (BitVec.ofNat 12 a).toNat = a := Nat.mod_eq_of_lt ha
    simpa only [haddr] using hread (BitVec.ofNat 12 a)
  · rw [Memory.read_of_le h (by omega), Memory.read_of_le h' (by omega)]

/-- Settles O21: the store is the byte write at its address, and a fetch reads its three bytes from
the memory the store left. -/
theorem fetchSeesEarlierStore : Obligations.FetchSeesEarlierStore := by
  unfold Obligations.FetchSeesEarlierStore
  intro s t r a hwf h
  cases h
  have hstored (q : Addr) (hq : q = a) : (s.writeByte a (s.reg r)).readByte q = s.reg r := by
    rw [hq, State.readByte_writeByte_self a _ hwf]
  exact ⟨hstored _, hstored _, hstored _⟩

end Sys2Proof.Machine
end

section
/-! PROOFS. Reset, the load and the host actions (spec/10_state.md R39, spec/70_reset_and_hazards.md
R250, R251, spec/00_scope.md R8), and the invariant of every reachable state. -/

namespace Sys2Proof.Machine

/-- Settles O57 by evaluation; the empty memory reads 0 at every address. -/
theorem resetLeavesTheseValues : Obligations.ResetLeavesTheseValues := by
  unfold Obligations.ResetLeavesTheseValues
  refine ⟨rfl, rfl, rfl, fun r => ?regs, rfl, rfl, rfl, rfl, rfl, fun a => rfl⟩
  case regs => cases r <;> rfl

/-- Settles O60: each action is the write of one field. -/
theorem hostActionsSetLatches : Obligations.HostActionsSetLatches := by
  unfold Obligations.HostActionsSetLatches
  intro s
  exact ⟨rfl, rfl, fun b => rfl⟩

/-! ### The load -/

/-- Under Zero a load starts from the values of reset. -/
theorem State.resetFrom_zero {s : State} (hzero : s.cfg.resetPolicy = .zero) (draw : ResetDraw) :
    (s.resetFrom draw).x = State.reset.x ∧ (s.resetFrom draw).sp = State.reset.sp ∧
      (s.resetFrom draw).flags = State.reset.flags ∧ (s.resetFrom draw).mem = State.reset.mem := by
  rw [State.resetFrom, hzero]
  exact ⟨rfl, rfl, rfl, rfl⟩

/-- Under Unspecified it takes registers, `sp` and flags as drawn, and a byte for each draw. -/
theorem State.resetFrom_unspecified {s : State} (hpolicy : s.cfg.resetPolicy = .unspecified)
    (draw : ResetDraw) : (s.resetFrom draw).x = draw.x ∧ (s.resetFrom draw).sp = draw.sp ∧
      (s.resetFrom draw).flags = draw.flags ∧
      (s.resetFrom draw).mem = Memory.place 0 (draw.mem.take 4096) [] := by
  rw [State.resetFrom, hpolicy]
  exact ⟨rfl, rfl, rfl, rfl⟩

theorem State.resetFrom_wf (draw : ResetDraw) (s : State) : (s.resetFrom draw).mem.wf = true := by
  cases hpolicy : s.cfg.resetPolicy with
  | zero =>
    obtain ⟨-, -, -, hmem⟩ := State.resetFrom_zero hpolicy draw
    rw [hmem]
    rfl
  | unspecified =>
    obtain ⟨-, -, -, hmem⟩ := State.resetFrom_unspecified hpolicy draw
    rw [hmem]
    exact Memory.place_wf rfl (by simp)

/-- Whatever the policy, a load starts Running at `pc` 0 with no request and no diagnostic. -/
theorem State.resetFrom_system (draw : ResetDraw) (s : State) :
    (s.resetFrom draw).run = .running ∧ (s.resetFrom draw).pc = 0x000#12 ∧
      (s.resetFrom draw).diag.kind = .none ∧ (s.resetFrom draw).irqPending = false ∧
      (s.resetFrom draw).sysPending = false ∧ (s.resetFrom draw).cfg = s.cfg := by
  unfold State.resetFrom
  cases s.cfg.resetPolicy <;> exact ⟨rfl, rfl, rfl, rfl, rfl, rfl⟩

/-- The state an accepted load leaves. -/
def State.loaded (draw : ResetDraw) (image : List Byte) (s : State) : State :=
  { s.resetFrom draw with mem := Memory.place 0 image (s.resetFrom draw).mem }

theorem State.load_of_le {image : List Byte} (h : image.length ≤ 4096) (draw : ResetDraw)
    (s : State) : s.load draw image = .next (s.loaded draw image) :=
  if_pos h

theorem State.load_of_gt {image : List Byte} (h : 4096 < image.length) (draw : ResetDraw)
    (s : State) : s.load draw image = .refused .resourceExhausted :=
  if_neg (Nat.not_le.mpr h)

/-- `Memory.read_place` for bytes placed from address 0 on. -/
theorem Memory.read_place_zero {bs : List Byte} {m : Memory} (hm : m.wf = true)
    (h : bs.length ≤ 4096) (b : Nat) :
    (Memory.place 0 bs m).read b = if b < bs.length then bs.getD b 0x00#8 else m.read b := by
  have hread := Memory.read_place hm (by rwa [Nat.zero_add]) b
  simpa only [Nat.zero_le, true_and, Nat.zero_add, Nat.sub_zero, Config.unlistedByte]
    using hread

/-- A byte after a load: the image's, or past the image what the load started from. -/
theorem State.loaded_readByte {image : List Byte} (h : image.length ≤ 4096) (draw : ResetDraw)
    (s : State) (a : Addr) : (s.loaded draw image).readByte a =
      if a.toNat < image.length then image.getD a.toNat 0x00#8 else (s.resetFrom draw).readByte a :=
  Memory.read_place_zero (s.resetFrom_wf draw) h a.toNat

/-- Under Unspecified the bytes past the image are the drawn ones, a missing draw being 0. -/
theorem State.resetFrom_readByte_unspecified {s : State}
    (hpolicy : s.cfg.resetPolicy = .unspecified) (draw : ResetDraw) (a : Addr) :
    (s.resetFrom draw).readByte a = draw.mem.getD a.toNat 0x00#8 := by
  have ha := a.isLt
  obtain ⟨-, -, -, hmem⟩ := State.resetFrom_unspecified hpolicy draw
  rw [State.readByte, hmem]
  refine (Memory.read_place_zero rfl (by simp) a.toNat).trans ?_
  split
  case isTrue hdrawn => simp [List.getElem?_take_of_lt ha]
  case isFalse hpast =>
    have hlen : draw.mem.length ≤ a.toNat := by
      rw [List.length_take] at hpast
      omega
    rw [List.getD_eq_default _ _ hlen]
    rfl

/-- Settles O58: the image by `State.loaded_readByte`, everything else by what the load started
from. -/
theorem loadPlacesImage : Obligations.LoadPlacesImage := by
  unfold Obligations.LoadPlacesImage
  intro s draw image
  refine ⟨fun hle => ?accepted, fun hgt => State.load_of_gt hgt draw s⟩
  case accepted =>
    obtain ⟨hrun, hpc, hdiag, hirq, hsys, hcfg⟩ := s.resetFrom_system draw
    refine ⟨_, State.load_of_le hle draw s, hrun, hpc, hdiag, hirq, hsys, hcfg, fun a ha => ?image,
      fun hzero => ?zero⟩
    case image => rw [State.loaded_readByte hle, if_pos ha]
    case zero =>
      obtain ⟨hx, hsp, hflags, hmem⟩ := State.resetFrom_zero hzero draw
      obtain ⟨-, -, -, hresetRegs, -, hresetFlags, -, -, -, hresetMem⟩ := resetLeavesTheseValues
      refine ⟨fun a ha => ?past, fun r => ?regs, hsp,
        (congrArg Flags.toByte hflags).trans hresetFlags⟩
      case past =>
        rw [State.loaded_readByte hle, if_neg (Nat.not_lt.mpr ha), State.readByte_congr hmem,
          hresetMem]
      case regs => exact (congrArg (Regs.get · r) hx).trans (hresetRegs r)

/-- Settles O59: past the image the load keeps what it started from, here the draws. -/
theorem unspecifiedLoadTakesDraws : Obligations.UnspecifiedLoadTakesDraws := by
  unfold Obligations.UnspecifiedLoadTakesDraws
  intro s draw image hle hpolicy
  obtain ⟨hx, hsp, hflags, -⟩ := State.resetFrom_unspecified hpolicy draw
  refine ⟨_, State.load_of_le hle draw s, hx, hsp, hflags, fun a ha => ?past⟩
  case past =>
    rw [State.loaded_readByte hle, if_neg (Nat.not_lt.mpr ha),
      State.resetFrom_readByte_unspecified hpolicy]

/-! ### The invariant -/

/-- Any parameters, at reset: the invariant does not speak of them. -/
theorem inv_reset (cfg : Config.Params) : Inv { State.reset with cfg := cfg } where
  memory := rfl
  diag := by simp [DiagMatchesRun, State.reset]

/-- Settles O26, with the default parameters. -/
theorem resetSatisfiesInvariant : Obligations.ResetSatisfiesInvariant := by
  unfold Obligations.ResetSatisfiesInvariant
  exact inv_reset Config.defaults

theorem inv_hostAct {s : State} (a : HostAction) (h : Inv s) : Inv (s.hostAct a) := by
  cases a <;> exact ⟨h.memory, h.diag⟩

/-- An accepted load establishes the invariant from any state. -/
theorem inv_of_load {s t : State} {draw : ResetDraw} {image : List Byte}
    (h : s.load draw image = .next t) : Inv t := by
  by_cases hle : image.length ≤ 4096
  case pos =>
    rw [State.load_of_le hle] at h
    cases h
    obtain ⟨hrun, -, hdiag, -⟩ := s.resetFrom_system draw
    have hwf : (s.loaded draw image).mem.wf = true :=
      Memory.place_wf (s.resetFrom_wf draw) (by omega)
    exact ⟨hwf, by simp [DiagMatchesRun, State.loaded, hrun, hdiag]⟩
  case neg =>
    rw [State.load_of_gt (Nat.not_le.mp hle)] at h
    cases h

/-- Settles O27 from `inv_hostAct` and `inv_of_load`. -/
theorem hostKeepsInvariant : Obligations.HostKeepsInvariant := by
  unfold Obligations.HostKeepsInvariant
  exact ⟨fun _ => inv_hostAct, fun _ _ _ _ => inv_of_load⟩

theorem inv_of_step {s t : State} (hinv : Inv s) (h : step s = .next t) : Inv t :=
  ⟨stepKeepsMemoryCanonical s t hinv.memory h, stepKeepsDiagMatchingRun s t hinv.diag h⟩

theorem inv_of_reachable {s : State} (h : Reachable s) : Inv s := by
  induction h with
  | reset cfg => exact inv_reset cfg
  | step _ hstep ih => exact inv_of_step ih hstep
  | host a _ ih => exact inv_hostAct a ih
  | load draw image _ hload _ => exact inv_of_load hload

theorem step_ne_refused (s : State) (r : Refusal) : step s ≠ .refused r := by
  cases hrun : s.run with
  | running =>
    obtain ⟨t, ht⟩ := step_isNext hrun
    simp [ht]
  | halted => simp [step_of_halted hrun]

/-- Settles O28: the invariant by induction on how the state was reached; no state's step is
refused. -/
theorem reachableStatesSatisfyInvariant : Obligations.ReachableStatesSatisfyInvariant := by
  unfold Obligations.ReachableStatesSatisfyInvariant
  intro s h
  exact ⟨inv_of_reachable h, step_ne_refused s⟩

end Sys2Proof.Machine
end

section
/-! PROOFS. HLT and the data transfers (spec/40_engine.md R116, spec/41_data_transfer.md R130 to
R134): one rule per instruction, for any operand, then the statements at each form of it. -/

namespace Sys2Proof.Machine

/-- Settles O38: HLT is the halt at `ia`. -/
theorem hltHalts : Obligations.HltHalts := by
  unfold Obligations.HltHalts
  intro s
  exact ⟨_, rfl, s.halt_haltedWith .hlt 0x00#7 s.ia⟩

/-- A register-indirect address is the register's number (spec/41_data_transfer.md R130). -/
theorem State.indirectAddr_eq_ofNat (s : State) (r : Reg) :
    s.indirectAddr r = BitVec.ofNat 12 (s.reg r).toNat := by
  apply BitVec.eq_of_toNat_eq
  rw [State.indirectAddr, BitVec.toNat_setWidth, BitVec.toNat_ofNat]

/-- LDM reads the byte at its address and writes one register. -/
theorem exec_ldm (d : Reg) (src : Operand) (s : State) :
    ∃ t : State, exec (.ldm d src) s = .next t ∧ t.reg d = s.readByte (s.addrOf src) ∧
      OnlyWrites [d] [] s t :=
  ⟨s.setReg d (s.readByte (s.addrOf src)), rfl, State.setReg_reg_self s d _,
    State.setReg_onlyWrites s d _⟩

/-- Settles O40: `exec_ldm` at each of the two address forms. -/
theorem ldmLoadsByte : Obligations.LdmLoadsByte := by
  unfold Obligations.LdmLoadsByte
  refine ⟨fun d a s => exec_ldm d (.imm a) s, fun d r s => ?indirect⟩
  case indirect =>
    rw [← State.indirectAddr_eq_ofNat]
    exact exec_ldm d (.reg r) s

/-- A byte write puts its byte at its address and changes no other element. -/
theorem State.writeByte_spec (s : State) (a : Addr) (v : Byte) :
    (s.mem.wf = true → (s.writeByte a v).readByte a = v) ∧ OnlyWrites [] [a] s (s.writeByte a v) :=
  ⟨State.readByte_writeByte_self a v, State.writeByte_onlyWrites s a v⟩

/-- Settles O41: the immediate form is one byte write. -/
theorem stiStoresImmediate : Obligations.StiStoresImmediate := by
  unfold Obligations.StiStoresImmediate
  intro d k s
  rw [← State.indirectAddr_eq_ofNat]
  refine ⟨s.writeByte (s.indirectAddr d) k, ?exec, s.writeByte_spec (s.indirectAddr d) k⟩
  case exec => rw [exec, execSti, State.operandValue_imm_setWidth]

/-- Settles O42: the register form is the halt at `ia`. -/
theorem stiWithRegisterModeHalts : Obligations.StiWithRegisterModeHalts := by
  unfold Obligations.StiWithRegisterModeHalts
  intro d r s
  exact ⟨_, rfl, s.halt_haltedWith .illegalRuntimeAddressingMode 0x03#7 s.ia⟩

/-- STR is one byte write at its address. -/
theorem exec_str (dst : Operand) (r : Reg) (s : State) :
    ∃ t : State, exec (.str dst r) s = .next t ∧
      (s.mem.wf = true → t.readByte (s.addrOf dst) = s.reg r) ∧
      OnlyWrites [] [s.addrOf dst] s t :=
  ⟨s.writeByte (s.addrOf dst) (s.reg r), rfl, s.writeByte_spec (s.addrOf dst) (s.reg r)⟩

/-- Settles O43: `exec_str` at each of the two address forms. -/
theorem strStoresRegister : Obligations.StrStoresRegister := by
  unfold Obligations.StrStoresRegister
  refine ⟨fun a r s => exec_str (.imm a) r s, fun d r s => ?indirect⟩
  case indirect =>
    rw [← State.indirectAddr_eq_ofNat]
    exact exec_str (.reg d) r s

end Sys2Proof.Machine
end

section
/-! PROOFS. The ALU (spec/42_alu.md R150 to R154): the flags of an exact sum and of an exact
difference, and what ADD, SUB and CMP write. -/

namespace Sys2Proof.Machine

theorem updateFlags_z_iff (clearsI : Bool) (n : Int) (f : Flags) :
    (updateFlags clearsI n f).z = true ↔ n = 0 :=
  decide_eq_true_iff

theorem updateFlags_c_iff (clearsI : Bool) (n : Int) (f : Flags) :
    (updateFlags clearsI n f).c = true ↔ 0xFF < n :=
  decide_eq_true_iff

theorem updateFlags_n_iff (clearsI : Bool) (n : Int) (f : Flags) :
    (updateFlags clearsI n f).n = true ↔ n < 0 :=
  decide_eq_true_iff

/-- The flags that a sum of two bytes leaves: Z for 0, C above 0xFF, N never. -/
structure SumFlags (a b : Byte) (f : Flags) : Prop where
  zero : f.z = true ↔ a.toNat + b.toNat = 0
  carry : f.c = true ↔ 0xFF < a.toNat + b.toNat
  negative : f.n = false

theorem updateFlags_exactSum (clearsI : Bool) (a b : Byte) (f : Flags) :
    SumFlags a b (updateFlags clearsI (exactSum a b) f) where
  zero := by
    rw [updateFlags_z_iff, exactSum]
    omega
  carry := by
    rw [updateFlags_c_iff, exactSum]
    omega
  negative := by
    rw [← Bool.not_eq_true, updateFlags_n_iff, exactSum]
    omega

/-- The flags that a difference of two bytes leaves: Z for equal, N for below, C never. -/
structure DiffFlags (a b : Byte) (f : Flags) : Prop where
  zero : f.z = true ↔ a = b
  negative : f.n = true ↔ a.toNat < b.toNat
  carry : f.c = false

theorem updateFlags_exactDiff (clearsI : Bool) (a b : Byte) (f : Flags) :
    DiffFlags a b (updateFlags clearsI (exactDiff a b) f) where
  zero := by
    rw [updateFlags_z_iff, exactDiff, BitVec.toNat_eq]
    omega
  negative := by
    rw [updateFlags_n_iff, exactDiff]
    omega
  carry := by
    have ha := a.isLt
    rw [← Bool.not_eq_true, updateFlags_c_iff, exactDiff]
    omega

theorem truncByte_exactSum (a b : Byte) :
    (truncByte (exactSum a b)).toNat = (a.toNat + b.toNat) % 256 := by
  have htrunc := truncByte_toNat (exactSum a b)
  rw [exactSum] at htrunc ⊢
  omega

theorem truncByte_exactDiff (a b : Byte) :
    (truncByte (exactDiff a b)).toNat = (a.toNat + 256 - b.toNat) % 256 := by
  have hb := b.isLt
  have htrunc := truncByte_toNat (exactDiff a b)
  rw [exactDiff] at htrunc ⊢
  omega

/-- UpdateFlags leaves everything but the flags. -/
theorem State.updateFlags_frame (s : State) (n : Int) :
    SameRegsExcept [] s (s.updateFlags n) ∧ SameMemoryExcept [] s (s.updateFlags n) ∧
      (s.updateFlags n).pc = s.pc ∧ (s.updateFlags n).sp = s.sp ∧
      SameSystem s (s.updateFlags n) ∧ SamePorts s (s.updateFlags n) :=
  ⟨fun _ _ => rfl, fun _ _ => rfl, rfl, rfl, ⟨rfl, rfl, rfl, rfl, rfl, rfl⟩, ⟨rfl, rfl⟩⟩

/-- What ADD and SUB leave: everything but the flags and their destination. -/
theorem State.updateFlags_setReg_frame (s : State) (n : Int) (d : Reg) (v : Byte) :
    SameRegsExcept [d] s ((s.updateFlags n).setReg d v) ∧
      SameMemoryExcept [] s ((s.updateFlags n).setReg d v) ∧
      ((s.updateFlags n).setReg d v).pc = s.pc ∧ ((s.updateFlags n).setReg d v).sp = s.sp ∧
      SameSystem s ((s.updateFlags n).setReg d v) ∧ SamePorts s ((s.updateFlags n).setReg d v) :=
  ⟨((s.updateFlags n).setReg_onlyWrites d v).regs, fun _ _ => rfl, rfl, rfl,
    ⟨rfl, rfl, rfl, rfl, rfl, rfl⟩, ⟨rfl, rfl⟩⟩

/-- Opcode 0x05 selects the ADD row, which uses D and S alone. -/
theorem decode_of_op_add {b0 b1 b2 : Byte} (hop : (decodeFields b0 b1 b2).op = 0x05#7) :
    decode b0 b1 b2 = .instr (.add (regOfBits (decodeFields b0 b1 b2).d)
      (regOfBits (decodeFields b0 b1 b2).s)) := by
  rw [decode, decodeInstr, hop]
  rfl

/-- Settles O44 by the value and the flags of the exact sum. -/
theorem addComputesSumAndFlags : Obligations.AddComputesSumAndFlags := by
  unfold Obligations.AddComputesSumAndFlags
  refine ⟨fun b0 b1 b2 hop => decode_of_op_add hop, fun d r s => ⟨_, rfl, ?value, ?flags⟩⟩
  case value =>
    rw [State.setReg_reg_self]
    exact truncByte_exactSum (s.reg d) (s.reg r)
  case flags =>
    obtain ⟨hz, hc, hn⟩ :=
      updateFlags_exactSum s.cfg.updateFlagsClearsI (s.reg d) (s.reg r) s.flags
    exact ⟨hz, hc, hn, rfl, s.updateFlags_setReg_frame _ d _⟩

/-- Settles O45 by the value and the flags of the exact difference. -/
theorem subComputesDifferenceAndFlags : Obligations.SubComputesDifferenceAndFlags := by
  unfold Obligations.SubComputesDifferenceAndFlags
  refine fun d r s => ⟨_, rfl, ?value, ?flags⟩
  case value =>
    rw [State.setReg_reg_self]
    exact truncByte_exactDiff (s.reg d) (s.reg r)
  case flags =>
    obtain ⟨hz, hn, hc⟩ :=
      updateFlags_exactDiff s.cfg.updateFlagsClearsI (s.reg d) (s.reg r) s.flags
    exact ⟨hz, hn, hc, rfl, s.updateFlags_setReg_frame _ d _⟩

/-- Settles O46 by the flags of the exact difference. -/
theorem cmpSetsFlagsOnly : Obligations.CmpSetsFlagsOnly := by
  unfold Obligations.CmpSetsFlagsOnly
  intro d r s
  obtain ⟨hz, hn, hc⟩ :=
    updateFlags_exactDiff s.cfg.updateFlagsClearsI (s.reg d) (s.reg r) s.flags
  exact ⟨_, rfl, hz, hn, hc, rfl, s.updateFlags_frame _⟩

end Sys2Proof.Machine
end

section
/-! PROOFS. The jumps (spec/43_jumps.md R170 to R180): each is the write of `pc` that its condition
selects, so what follows an ALU result follows from the flags it left. -/

namespace Sys2Proof.Machine

/-- A jump whose condition says `P` takes its target exactly when `P` holds. -/
theorem next_jumpIf (s : State) {cond : Bool} {P : Prop} [Decidable P] (h : cond = true ↔ P)
    (a : Addr) : (.next (s.jumpIf cond a) : Host.Outcome State Fault Refusal) =
      .next (s.setPc (if P then a else s.pc)) := by
  rw [State.jumpIf_eq_setPc, if_congr h rfl rfl]

/-- A jump whose condition is false does nothing. -/
theorem next_jumpIf_of_eq_false (s : State) {cond : Bool} (h : cond = false) (a : Addr) :
    (.next (s.jumpIf cond a) : Host.Outcome State Fault Refusal) = .next s := by
  rw [h]
  rfl

theorem condBelowOrEqual_iff (f : Flags) :
    condBelowOrEqual f = true ↔ f.c = true ∨ f.z = true :=
  Bool.or_eq_true_iff

theorem condAbove_iff (f : Flags) : condAbove f = true ↔ f.c = false ∧ f.z = false := by
  rw [condAbove, Bool.and_eq_true, Bool.not_eq_true', Bool.not_eq_true']

/-- Settles O47: opcode 0x10 selects the JMP row, and JMP is the write of `pc`. -/
theorem jmpSetsPc : Obligations.JmpSetsPc := by
  unfold Obligations.JmpSetsPc
  refine ⟨fun b0 b1 b2 hop => ?decoding, fun a s => rfl⟩
  case decoding =>
    rw [decode, decodeInstr, hop]
    rfl

/-- Settles O48, each jump by what its condition says of the flags. -/
theorem conditionalJumpsTestFlags : Obligations.ConditionalJumpsTestFlags := by
  unfold Obligations.ConditionalJumpsTestFlags
  intro a s
  have notSet (b : Bool) : (!b) = true ↔ b = false := by simp
  exact ⟨next_jumpIf s Iff.rfl a, next_jumpIf s (notSet _) a, next_jumpIf s Iff.rfl a,
    next_jumpIf s (notSet _) a, next_jumpIf s Iff.rfl a, next_jumpIf s (notSet _) a,
    next_jumpIf s (condBelowOrEqual_iff s.flags) a, next_jumpIf s (condAbove_iff s.flags) a⟩

/-- SUB and CMP leave the same flags, those of the exact difference. -/
theorem diffFlags_of_sub_or_cmp {i : Instr} {d r : Reg} {s t : State}
    (hi : i = .sub d r ∨ i = .cmp d r) (h : exec i s = .next t) :
    DiffFlags (s.reg d) (s.reg r) t.flags := by
  obtain rfl | rfl := hi
  all_goals
    cases h
    exact updateFlags_exactDiff _ _ _ _

/-- Settles O49: the conditions of the jumps read off the flags of a difference, where C is never
set. -/
theorem jumpsAfterSubAndCmp : Obligations.JumpsAfterSubAndCmp := by
  unfold Obligations.JumpsAfterSubAndCmp
  intro i d r target s t hi h
  obtain ⟨hz, hn, hc⟩ := diffFlags_of_sub_or_cmp hi h
  have hbe : condBelowOrEqual t.flags = true ↔ s.reg d = s.reg r := by
    simp [condBelowOrEqual_iff, hc, hz]
  have ha : condAbove t.flags = true ↔ s.reg d ≠ s.reg r := by
    simp [condAbove_iff, hc, ← hz]
  have habove := next_jumpIf t ha target
  rw [ite_not] at habove
  exact ⟨next_jumpIf t hz target, next_jumpIf t hbe target, habove, next_jumpIf t hn target,
    next_jumpIf_of_eq_false t hc target⟩

/-- Settles O50: the same from the flags of a sum, where N is never set. -/
theorem jumpsAfterAdd : Obligations.JumpsAfterAdd := by
  unfold Obligations.JumpsAfterAdd
  intro d r target s t h
  obtain ⟨hz, hc, hn⟩ : SumFlags (s.reg d) (s.reg r) t.flags := by
    cases h
    exact updateFlags_exactSum _ _ _ _
  have hbe : condBelowOrEqual t.flags = true ↔
      (s.reg d).toNat + (s.reg r).toNat = 0 ∨ 255 < (s.reg d).toNat + (s.reg r).toNat := by
    rw [condBelowOrEqual_iff, hc, hz, or_comm]
  have ha : condAbove t.flags = true ↔
      1 ≤ (s.reg d).toNat + (s.reg r).toNat ∧ (s.reg d).toNat + (s.reg r).toNat ≤ 255 := by
    rw [condAbove_iff, ← Bool.not_eq_true, ← Bool.not_eq_true, hc, hz]
    omega
  exact ⟨next_jumpIf t hbe target, next_jumpIf t ha target, next_jumpIf t hc target,
    next_jumpIf_of_eq_false t hn target⟩

end Sys2Proof.Machine
end

section
/-! PROOFS. PUSH, POP, CALL and RET (spec/44_stack_call.md R192 to R195) and the ports
(spec/45_io.md R210 to R212): with `sp`, `pc` or the record put back, each is a plain register or
byte write. -/

namespace Sys2Proof.Machine

theorem slotAddr_zero (s : State) : slotAddr s 0#8 = stackAddr s.sp := by
  rw [slotAddr_eq, BitVec.add_zero]

/-- PUSH of any operand: but for `sp` it is the byte write at the slot. -/
theorem exec_push (src : Operand) (s : State) :
    ∃ t : State, exec (.push src) s = .next t ∧
      (s.mem.wf = true → t.readByte (slotAddr s 0#8) = s.operandValue src) ∧
      t.sp.toNat = (s.sp.toNat + 1) % 256 ∧
      OnlyWrites [] [slotAddr s 0#8] s { t with sp := s.sp } := by
  rw [slotAddr_zero]
  exact ⟨s.push8 (s.operandValue src), rfl, State.push8_readByte_self _, s.push8_sp_toNat _,
    s.writeByte_onlyWrites (stackAddr s.sp) (s.operandValue src)⟩

/-- Settles O51: `exec_push` at each of the two forms of the operand. -/
theorem pushStoresOperand : Obligations.PushStoresOperand := by
  unfold Obligations.PushStoresOperand
  refine ⟨fun r s => exec_push (.reg r) s, fun k s => ?immediate⟩
  case immediate =>
    have hpush := exec_push (.imm (k.setWidth 12)) s
    rwa [State.operandValue_imm_setWidth] at hpush

/-- Settles O52: but for `sp`, POP is the write of one register. -/
theorem popLoadsRegister : Obligations.PopLoadsRegister := by
  unfold Obligations.PopLoadsRegister
  intro d s
  refine ⟨s.popState.setReg d s.popValue, rfl, s.popState_sp_toNat, ?value,
    s.setReg_onlyWrites d s.popValue⟩
  case value =>
    rw [State.setReg_reg_self, slotAddr_zero, State.popValue_eq_readByte, State.setReg_sp]

/-- But for `pc` and `sp`, a push of `pc` changes the two slots alone. -/
theorem State.pushPc_onlyWrites (s : State) :
    OnlyWrites [] [slotAddr s 0#8, slotAddr s 1#8] s { s.pushPc with pc := s.pc, sp := s.sp } where
  regs _ _ := rfl
  memory := s.pushPc_memory
  pc := rfl
  sp := rfl
  flags := rfl
  system := ⟨rfl, rfl, rfl, rfl, rfl, rfl⟩
  ports := ⟨rfl, rfl⟩

/-- Settles O53: the push of `pc`, then the jump. -/
theorem callPushesReturnAddress : Obligations.CallPushesReturnAddress := by
  unfold Obligations.CallPushesReturnAddress
  intro target s
  refine ⟨s.pushPc.setPc target, rfl, fun hwf => ?pushed, sp_add_two s.sp, rfl, s.pushPc_onlyWrites⟩
  case pushed =>
    obtain ⟨hlow, hhigh, hsp⟩ := State.pushPc_pcPushed hwf
    exact ⟨hlow, hhigh, hsp⟩

/-- Settles O54: the two slots below `sp`, counted mod 256, hold the bytes of the address. -/
theorem retPopsPc : Obligations.RetPopsPc := by
  unfold Obligations.RetPopsPc
  intro s
  have htwo : s.sp - 1#8 - 1#8 = s.sp - 2#8 := by
    rw [BitVec.sub_sub]
    rfl
  refine ⟨s.popPc, rfl, ?pc, htwo, OnlyWrites.refl [] [] s⟩
  case pc =>
    rw [State.popPc_spec, addrOfBytes_toNat, htwo, BitVec.sub_eq_add_neg, BitVec.sub_eq_add_neg]
    rfl

/-- Settles O55: but for the record of transactions, IN is the write of one register with the drawn
byte. -/
theorem inLoadsDrawnByte : Obligations.InLoadsDrawnByte := by
  unfold Obligations.InLoadsDrawnByte
  intro d port s
  have hvalue := State.setReg_reg_self (s.ioIn (s.operandValue port)) d
    (s.ioInValue (s.operandValue port))
  refine ⟨_, rfl, ?events, hvalue, rfl, s.setReg_onlyWrites d _⟩
  case events =>
    rw [hvalue]
    rfl

/-- Settles O56: OUT is the record of one event; an immediate port is its byte. -/
theorem outSendsByte : Obligations.OutSendsByte := by
  unfold Obligations.OutSendsByte
  refine ⟨fun p r s => rfl, fun k r s => ?immediate⟩
  case immediate =>
    rw [exec, execOutPort, State.operandValue_imm_setWidth]
    rfl

end Sys2Proof.Machine
end
